-- ==== Sys2Proof/Word.lean ====
section
/-!
DEFINITION. The number types of the machine: Word, trit, residue, byte, 7-bit code. The hardware has no bits
(00_scope R5, 10_state R10), so each is a bounded natural number and nothing here is a bit vector.
-/

namespace Sys2Proof

/-- A Word: "an integer value in the closed range [0, 59048]" (10_state R10; WMOD = 59049 = 3^10, 00_scope R4). -/
abbrev Word := Fin 59049

/-- A trit, one ternary digit: 0, 1 or 2 (00_scope R9, 10_state R11). -/
abbrev Trit := Fin 3

/-- A residue: the position-relative opcode value, 0 to 93 (RMOD = 94; 30_encoding R51). -/
abbrev Residue := Fin 94

/-- A byte of `IN` and a value of the cipher table: 0 to 255 (30_encoding R61, R62). -/
abbrev Byte := Fin 256

/-- A 7-bit output character code: 0 to 127 (OMOD = 128; 30_encoding R61). -/
abbrev Code7 := Fin 128

/-- The Word congruent to `n` modulo 59049 (10_state R10, "All arithmetic on Word wraps modulo 59049"). -/
def Word.ofNat (n : Nat) : Word := ⟨n % 59049, Nat.mod_lt n (by decide)⟩

/-- A byte is the Word of the same numeric value (20_memory R32, 46_io R161). -/
def Word.ofByte (b : Byte) : Word := ⟨b.val, Nat.lt_trans b.isLt (by decide)⟩

end Sys2Proof
end

