-- ==== Sys2Proof/Config.lean ====
section
/-!
DEFINITION. What the spec leaves to an instance of the machine (00_scope R4, 10_state R23): the parameters ENC,
DECODE_WRAP, MEM_INIT, IS_WS, VALID7, as arguments of the machine (Params), and the one instance that `step` runs
(Config.machine). An opaque constant is a free value: no proof can learn what it is.
-/

namespace Sys2Proof

/-- The open parameters of 00_scope R4, an argument of the machine: a claim may quantify over it. Every function that
depends on one has a form `…With` that takes it; the form without is that one at `Config.machine`. -/
structure Params where
  /-- `ENC` (42_decode_encrypt R113). -/
  enc : Residue → Byte
  /-- `DECODE_WRAP` (30_encoding R51). -/
  decodeWrap : Bool
  /-- `MEM_INIT` (10_state R15). -/
  memInit : Word → Word
  /-- `IS_WS` (41_loader R91). -/
  isWs : Int → Bool
  /-- `VALID7` (46_io R162). -/
  valid7 : Code7 → Bool

/-- `ENC`, the cipher table: a total function from the residues to bytes, "of which nothing else is assumed"
(42_decode_encrypt R113, D3). Log entry 3. -/
opaque Config.enc : Residue → Byte

/-- `MEM_INIT`, what memory holds before the loader writes it: a draw (70_reset_and_hazards R193, D5). Log entry 2. -/
opaque Config.memInit : Word → Word

/-- `DECODE_WRAP`: whether the decode sum wraps modulo 59049 before the reduction modulo 94; the spec decides
true (30_encoding R51, D4). UNVERIFIED, log entry 4: `Params.decodeWrap` is the argument. -/
def Config.decodeWrap : Bool := true

/-- The default of `IS_WS`: tab, line feed, vertical tab, form feed, carriage return, space (41_loader R91). -/
def Config.isWsDefault (ch : Int) : Bool :=
  ch == 9 || ch == 10 || ch == 11 || ch == 12 || ch == 13 || ch == 32

/-- The codes on which the candidate whitespace sets of 91_not_in_source N3 differ: code 11 and the non-ASCII spaces. -/
def Config.wsDisputed (ch : Int) : Bool :=
  ch == 11 || ch == 133 || ch == 160 || ch == 5760 || (decide (8192 ≤ ch) && decide (ch ≤ 8202)) ||
    ch == 8232 || ch == 8233 || ch == 8239 || ch == 8287 || ch == 12288

/-- The free part of `IS_WS`: its values on the disputed codes. Log entry 5. -/
opaque Config.isWsOpen : Int → Bool

/-- `IS_WS`: which character codes the loader strips (41_loader R91, D10). DESIGN CHOICE, log entry 5: the spec's
default where its candidate sets agree, a free value where they differ. -/
def Config.isWs (ch : Int) : Bool :=
  if Config.wsDisputed ch then Config.isWsOpen ch else Config.isWsDefault ch

/-- The default of `VALID7`: every 7-bit code has a textual representation (46_io R162). -/
def Config.valid7Default (_ : Code7) : Bool := true

/-- The free part of `VALID7`: its values on codes 0 to 31 and 127 (D11). Log entry 6. -/
opaque Config.valid7Open : Code7 → Bool

/-- `VALID7`: which 7-bit codes have a valid textual representation (46_io R162, D11). DESIGN CHOICE, log entry 6:
true on 32 to 126, "which every reading of printable/valid accepts", a free value on the other codes. -/
def Config.valid7 (c : Code7) : Bool :=
  if 32 ≤ c.val ∧ c.val ≤ 126 then true else Config.valid7Open c

/-- The instance `step` runs: the free values, the spec's decision and the choices above. -/
def Config.machine : Params where
  enc := Config.enc
  decodeWrap := Config.decodeWrap
  memInit := Config.memInit
  isWs := Config.isWs
  valid7 := Config.valid7

/-- The rows of the candidate table `ENC_STD` of 93_implementation_defined G1, `k` from 0. -/
def Config.encStdRows : List Nat :=
  [57, 109, 60, 46, 84, 86, 97, 99, 96, 117] ++ [89, 42, 77, 75, 39, 88, 126, 120, 68, 108] ++
  [125, 82, 69, 111, 107, 78, 58, 35, 63, 71] ++ [34, 105, 64, 53, 122, 93, 38, 103, 113, 116] ++
  [121, 102, 114, 36, 40, 119, 101, 52, 123, 87] ++ [80, 41, 72, 45, 90, 110, 44, 91, 37, 92] ++
  [51, 100, 76, 43, 81, 59, 62, 85, 33, 112] ++ [74, 83, 55, 50, 70, 104, 79, 65, 49, 67] ++
  [66, 54, 118, 94, 61, 73, 95, 48, 47, 56] ++ [124, 106, 115, 98]

/-- `ENC_STD`, the candidate instantiation of `ENC` (93_implementation_defined G1). PRESUMED, log entry 17: from
general knowledge, in no source; the machine does not use it, it is here for a claim that takes it as an argument. -/
def Config.encStd (k : Residue) : Byte :=
  ⟨Config.encStdRows.getD k.val 0 % 256, Nat.mod_lt _ (by decide)⟩

end Sys2Proof
end

