-- ==== Sys2Proof/Machine/Alu.lean ====
section
/-!
DEFINITION. The Ternary Word ALU (40_ternary_alu): digits, combine, rotate, increment, add, ternary text. Pure total
functions on Words (R70); none writes a flag and none can fault on Word operands.
-/

namespace Sys2Proof.Alu

/-- `w{k}`, the digit of weight `3^k` (00_scope R5). -/
def digit (w : Word) (k : Nat) : Trit := ⟨w.val / 3 ^ k % 3, Nat.mod_lt _ (by decide)⟩

/-- The `n` least-significant ternary digits of a number, least significant first. -/
def digitsOf : Nat → Nat → List Trit
  | 0, _ => []
  | n + 1, w => ⟨w % 3, Nat.mod_lt _ (by decide)⟩ :: digitsOf n (w / 3)

/-- `digits(w)`: the 10 ternary digits, least significant first (R71). -/
def digits (w : Word) : List Trit := digitsOf 10 w.val

/-- The number whose ternary digits are `ds`, least significant first. -/
def undigitsNat : List Trit → Nat
  | [] => 0
  | d :: ds => d.val + 3 * undigitsNat ds

/-- `undigits`: reassembles 10 digits, least significant first, into a Word (R71). -/
def undigits (ds : List Trit) : Word := Word.ofNat (undigitsNat ds)

/-- `CRZ_TABLE`, in the source's order (R72): first the digit of `a`, then the digit of `b`. -/
def crz1 : Trit → Trit → Trit
  | 0, 0 => 1
  | 1, 0 => 1
  | 2, 0 => 2
  | 0, 1 => 0
  | 1, 1 => 0
  | 2, 1 => 2
  | 0, 2 => 0
  | 1, 2 => 2
  | 2, 2 => 1

/-- `combine(a, b)`: the table applied to each aligned digit pair (R73). -/
def combine (a b : Word) : Word := undigits (List.zipWith crz1 (digits a) (digits b))

/-- `rotate(w) = (w div 3) + (w mod 3) * 19683` (R75). -/
def rotate (w : Word) : Word :=
  ⟨w.val / 3 + w.val % 3 * 19683, by have := w.isLt; omega⟩

/-- `inc(w) = (w + 1) mod 59049` (R76). -/
def inc (w : Word) : Word := Word.ofNat (w.val + 1)

/-- `add(a, b) = (a + b) mod 59049` (R77). -/
def add (a b : Word) : Word := Word.ofNat (a.val + b.val)

/-- The Word before `w` modulo 59049, the inverse of `inc`: the loader's predecessor index (41_loader R97). -/
def pred (w : Word) : Word := Word.ofNat (w.val + 59048)

/-- The character of one digit in ternary text (R78). -/
def digitChar : Trit → Char
  | 0 => '0'
  | 1 => '1'
  | 2 => '2'

/-- `render(w)`: the 10 digit characters, most significant first (R78). -/
def render (w : Word) : List Char := (digits w).reverse.map digitChar

/-- The digit a character of ternary text stands for, if it is one of `0`, `1`, `2`. -/
def charDigit (ch : Char) : Option Trit :=
  if ch = '0' then some 0 else if ch = '1' then some 1 else if ch = '2' then some 2 else none

/-- The digits of a text, in its order; `none` if a character is no digit. -/
def textDigits : List Char → Option (List Trit)
  | [] => some []
  | ch :: rest =>
    match charDigit ch, textDigits rest with
    | some d, some ds => some (d :: ds)
    | _, _ => none

/-- `parse(s)` for a string of exactly 10 characters `0`, `1`, `2` (R79); `none` stands for the refusal
`MalformedTernaryText` (60_exceptions R175), which `Machine.parse` names and `State.parseArgument` marks. -/
def parseText (s : List Char) : Option Word :=
  if s.length = 10 then (textDigits s).map (fun ds => undigits ds.reverse) else none

end Sys2Proof.Alu
end

