-- ==== Sys2Proof/Syntax.lean ====
section
/-!
DEFINITION. The instruction set: the eight operations of 30_encoding R52 and the unassigned residues of R53, one
constructor per row of the opcode table. No instruction has an explicit operand (R54).
-/

namespace Sys2Proof

/-- An instruction, as the opcode table names it. -/
inductive Instr where
  /-- Jmp, residue 4 (44_control R140). -/
  | jmp
  /-- Out, residue 5 (46_io R160). -/
  | out
  /-- In, residue 23 (46_io R161). -/
  | inp
  /-- Rot, residue 39 (45_data R150). -/
  | rot
  /-- SetD, residue 40 (45_data R151). -/
  | setD
  /-- Crz, residue 62 (45_data R152). -/
  | crz
  /-- Nop, residue 68 (44_control R141). -/
  | nop
  /-- End, residue 81 (44_control R142). -/
  | halt
  /-- NOPX, one of the 86 unassigned residues (44_control R143); the residue is kept so that encoding loses nothing. -/
  | nopx (r : Residue)
  deriving DecidableEq, Repr

end Sys2Proof
end

