-- ==== Sys2Proof/WellFormed.lean ====
section
/-!
DEFINITION. Which instruction terms stand for an encoding: all but `nopx r` with `r` one of the eight assigned
residues (30_encoding R52, R53).
-/

namespace Sys2Proof

/-- `LEGAL`, the eight legal opcode residues (00_scope R4). -/
def legalResidues : List Residue := [4, 5, 23, 39, 40, 62, 68, 81]

/-- An unassigned-residue term carries an unassigned residue; every other term is well formed. -/
def Instr.wellFormed : Instr → Bool
  | .jmp | .out | .inp | .rot | .setD | .crz | .nop | .halt => true
  | .nopx r => !legalResidues.contains r

end Sys2Proof
end

