-- ==== Sys2Proof/Decode.lean ====
section
/-!
DEFINITION. Decoding and encoding (30_encoding, 42_decode_encrypt section 1): the residue function, the opcode map,
the decoder (total: every Word at every address decodes, R110), and the encoder (R56).
-/

namespace Sys2Proof

/-- `wsum(v, p)` under either reading of the decode sum (30_encoding R51). -/
def wsumWith (wrap : Bool) (v p : Word) : Nat :=
  if wrap then (Alu.add v p).val else v.val + p.val

/-- `residue(v, p)` under either reading (30_encoding R51). -/
def residueWith (wrap : Bool) (v p : Word) : Residue :=
  ⟨wsumWith wrap v p % 94, Nat.mod_lt _ (by decide)⟩

/-- `residue(v, p)` of the cell value `v` at address `p`, under the machine's `DECODE_WRAP`. -/
def residue (v p : Word) : Residue := residueWith Config.decodeWrap v p

/-- The opcode map (30_encoding R52): residue and operation. -/
def opcodeMap : List (Residue × Instr) :=
  [(4, .jmp), (5, .out), (23, .inp), (39, .rot), (40, .setD), (62, .crz), (68, .nop), (81, .halt)]

/-- The first row of a map whose key is `r`. -/
def lookupResidue (r : Residue) : List (Residue × Instr) → Option Instr
  | [] => none
  | (k, i) :: rest => if r = k then some i else lookupResidue r rest

/-- The operation a residue selects: its row of the opcode map, else NOPX (30_encoding R52, R53). -/
def decodeResidue (r : Residue) : Instr :=
  match lookupResidue r opcodeMap with
  | some i => i
  | none => .nopx r

/-- Decode under either reading of the decode sum (42_decode_encrypt R110). -/
def decodeWith (wrap : Bool) (v p : Word) : Instr := decodeResidue (residueWith wrap v p)

/-- Decode the cell value `v` fetched from address `p` (42_decode_encrypt R110), under the machine's `DECODE_WRAP`. -/
def decode (v p : Word) : Instr := decodeWith Config.decodeWrap v p

/-- Whether a residue is in `LEGAL`, the loader's test (41_loader R93). -/
def legal (r : Residue) : Bool := legalResidues.contains r

/-- The residue of an instruction (30_encoding R52, R53). -/
def residueOf : Instr → Residue
  | .jmp => 4
  | .out => 5
  | .inp => 23
  | .rot => 39
  | .setD => 40
  | .crz => 62
  | .nop => 68
  | .halt => 81
  | .nopx r => r

/-- `code(r, p) = ((r - p) mod 94)`, plus 94 if that is below 33 (30_encoding R56): the one code of 33 to 126 whose
sum with `p` is congruent to `r` modulo 94. -/
def code (r : Residue) (p : Word) : Nat :=
  let m := (r.val + (94 - p.val % 94)) % 94
  if m < 33 then m + 94 else m

/-- The cell value that holds instruction `i` at address `p`: the canonical code of R56 where the decode sum does not
wrap, else the value whose wrapped sum is the residue itself. DESIGN CHOICE, log entry 15. -/
def encodeWith (wrap : Bool) (i : Instr) (p : Word) : Word :=
  if wrap = false ∨ code (residueOf i) p + p.val < 59049 then Word.ofNat (code (residueOf i) p)
  else Word.ofNat ((residueOf i).val + (59049 - p.val))

/-- The cell value that holds `i` at `p`, under the machine's `DECODE_WRAP`. -/
def encode (i : Instr) (p : Word) : Word := encodeWith Config.decodeWrap i p

/-- The instruction the decoder reads from a table word. The opcode table gives a row its residue and no bits; its
word `w` is the cell value fetched from address 0, where the residue of a `w` below 94 is `w` itself. Log entry 14. -/
def decodeTableWord (_nbits w : Nat) : Option Instr :=
  if w < 59049 then some (decode (Word.ofNat w) 0) else none

end Sys2Proof
end

