-- ==== Sys2Proof/Machine/State.lean ====
section
/-!
DEFINITION. The machine's state as plain data (10_state), the reasons a step can stop, and the state after reset (R26).
-/

namespace Sys2Proof.Machine

/-- `PHASE`, the engine's top-level state (10_state R16). -/
inductive Phase where
  /-- The loader is consuming the `LOAD` stream; no instruction executes. -/
  | loading
  /-- Cycles execute. -/
  | running
  /-- The successful end, entered by End; left only by reset. -/
  | halted
  /-- A fatal condition occurred; left only by reset. -/
  | faulted
  deriving DecidableEq, Repr

/-- The three error kinds with their information words (60_exceptions R170). It is both the record `FAULT` and the
reason a step in phase FAULTED answers. -/
inductive Fault where
  /-- Raised by the loader's legality check, carrying the offending residue (41_loader R95). Safe: the spec's own fault. -/
  | loadInvalidOpcode (r : Residue)
  /-- Raised by In at end of input (46_io R161). Safe: the spec's own fault. -/
  | inputExhausted
  /-- Raised by nothing (60_exceptions R173): its causes cannot be written in this model's types. Safe. -/
  | invariantViolation
  deriving DecidableEq, Repr

/-- The code of an error kind (60_exceptions R170). -/
def Fault.code : Fault → Nat
  | .loadInvalidOpcode _ => 1
  | .inputExhausted => 2
  | .invariantViolation => 3

/-- The information word of an error kind; for InvariantViolation the spec specifies none (60_exceptions R170). -/
def Fault.info : Fault → Option Nat
  | .loadInvalidOpcode r => some r.val
  | .inputExhausted => some 0
  | .invariantViolation => none

/-- The reasons of the mark `REFUSED` (60_exceptions R175). -/
inductive RefuseReason where
  /-- A program text with no non-whitespace character (41_loader R98 a). -/
  | emptyImage
  /-- More than 59049 non-whitespace characters (41_loader R98 b). -/
  | imageTooLong
  /-- A non-whitespace character code below 0 or above 59048 (41_loader R98 c). -/
  | charOutOfRange
  /-- An argument of `parse` that is not 10 characters of 0, 1, 2 (40_ternary_alu R79). -/
  | malformedTernaryText
  deriving DecidableEq, Repr

/-- Why a step has no meaning. -/
inductive Refusal where
  /-- Raised by `exec` for an instruction that has no meaning yet (no arm uses it now). Safe. -/
  | notModelled (mnemonic : String)
  /-- Raised by a loading step once `REFUSED` is set, whatever set it (60_exceptions R175). Safe: the spec gives the input no meaning. -/
  | refusedInput (reason : RefuseReason)
  deriving DecidableEq, Repr

/-- An item of the `LOAD` stream: a character code, any integer, or the end-of-text mark (10_state R20, 41_loader R90). -/
inductive LoadItem where
  | char (code : Int)
  | endOfText
  deriving DecidableEq, Repr

/-- An output symbol: `Char7(c)` with `c` in 0 to 127, or the replacement character `Repl` (30_encoding R61). -/
inductive OutSym where
  | char7 (c : Code7)
  | repl
  deriving DecidableEq, Repr

/-- Memory: the cells written since reset as (address, Word) pairs, addresses strictly rising; an address not listed
has not been written and reads as `MEM_INIT` there (10_state R15, 70_reset_and_hazards R193). Log entries 1 and 2. -/
abbrev Memory := List (Word × Word)

/-- The machine's state: every piece the spec gives it (10_state R12 to R20). -/
structure State where
  /-- `A`, the accumulator (R12). -/
  a : Word
  /-- `C`, the program counter (R13). -/
  c : Word
  /-- `D`, the data pointer (R14). -/
  d : Word
  /-- Memory, 59049 cells (R15). -/
  mem : Memory
  /-- `PHASE` (R16). -/
  phase : Phase
  /-- `LPOS`, how many characters the loader has stored (R17). -/
  lpos : Nat
  /-- `LOADED_LEN`, the loaded length; meaningful once the loader has completed (R17). -/
  loadedLen : Nat
  /-- `CYCLES`, the number of completed cycles (R18). -/
  cycles : Nat
  /-- `FAULT`: none, or the recorded kind with its information (R19). -/
  fault : Option Fault
  /-- `REFUSED`: not set, or the reason (R19). -/
  refused : Option RefuseReason
  /-- The unread part of the `LOAD` stream (R20). -/
  load : List LoadItem
  /-- Every byte supplied on `IN` so far (R20, 46_io R163). -/
  inStream : List Byte
  /-- The read position in `IN`: how many bytes have been taken (46_io R163). -/
  inPos : Nat
  /-- Whether the environment has set the end-of-input mark (46_io R163). -/
  inEnded : Bool
  /-- `OUT`, the symbols emitted so far, first emitted first (R20). -/
  out : List OutSym
  deriving DecidableEq, Repr

/-- The state right after reset (10_state R26). `LOADED_LEN` is undefined there in the spec and 0 here (DESIGN CHOICE,
log entry 13); what LOAD and IN hold is the environment's business, and they are empty here (DESIGN CHOICE, log entry 12). -/
def State.reset : State where
  a := 0
  c := 0
  d := 0
  mem := []
  phase := .loading
  lpos := 0
  loadedLen := 0
  cycles := 0
  fault := none
  refused := none
  load := []
  inStream := []
  inPos := 0
  inEnded := false
  out := []

/-- What a step answers. -/
abbrev Result := Host.Outcome State Fault Refusal

end Sys2Proof.Machine
end

