-- ==== Sys2Proof/Machine/Ops.lean ====
section
/-!
DEFINITION. The named operations over memory, registers, streams and status that the meanings, the loader and the step
share: memory access (20_memory), the tail fill (41_loader R96), the cipher write-back and the end of a cycle
(42_decode_encrypt, 43_execution_cycle), fault entry and refusal (60_exceptions), the streams (46_io).
-/

namespace Sys2Proof.Machine

/-! ### Memory -/

/-- What has been written to address `a` since reset, if anything. -/
def Memory.lookup : Memory → Word → Option Word
  | [], _ => none
  | (k, v) :: rest, a =>
    if a.val = k.val then some v else if a.val < k.val then none else Memory.lookup rest a

/-- What an address that nothing has written reads as: `MEM_INIT` (10_state R15, D5). -/
def Memory.unwritten (a : Word) : Word := Config.memInit a

/-- `MemRead(a, 1)` under a given `MEM_INIT` (20_memory R31). -/
def Memory.readWith (init : Word → Word) (m : Memory) (a : Word) : Word :=
  match Memory.lookup m a with
  | some v => v
  | none => init a

/-- `MemRead(a, 1)` (20_memory R31). -/
def Memory.read (m : Memory) (a : Word) : Word := Memory.readWith Memory.unwritten m a

/-- `MemWrite(a, 1, v)` (20_memory R31), keeping the addresses strictly rising. -/
def Memory.write : Memory → Word → Word → Memory
  | [], a, v => [(a, v)]
  | (k, w) :: rest, a, v =>
    if a.val < k.val then (a, v) :: (k, w) :: rest
    else if a.val = k.val then (a, v) :: rest
    else (k, w) :: Memory.write rest a v

/-- The canonical form: addresses strictly rising. Log entry 2. -/
def Memory.wf : Memory → Bool
  | [] => true
  | [_] => true
  | (k, _) :: (k', v') :: rest => decide (k.val < k'.val) && Memory.wf ((k', v') :: rest)

/-- The `n` tail cells from address `j` on, `x` and `y` being the two cells before it (41_loader R96). -/
def Memory.tailCells (x y : Word) (j : Nat) : Nat → Memory
  | 0 => []
  | n + 1 => (Word.ofNat j, Alu.combine x y) :: Memory.tailCells y (Alu.combine x y) (j + 1) n

/-- The tail fill under a given `MEM_INIT` for loaded length `len`: cells below `len` stay, every address from `len` to 59048 gets the combine
of its two predecessors, whose indices are taken modulo 59049 (41_loader R96, R97). It is the loop of R100 in a form
that builds the cells in address order. -/
def Memory.fillTailWith (init : Word → Word) (m : Memory) (len : Nat) : Memory :=
  m.filter (fun cell => decide (cell.1.val < len)) ++
    Memory.tailCells (Memory.readWith init m (Alu.pred (Alu.pred (Word.ofNat len))))
      (Memory.readWith init m (Alu.pred (Word.ofNat len))) len (59049 - len)

/-- The tail fill under the machine's `MEM_INIT`. -/
def Memory.fillTail (m : Memory) (len : Nat) : Memory := Memory.fillTailWith Memory.unwritten m len

/-! ### Cells and registers of a state -/

/-- The Word held in cell `a`, in the instance `P`. -/
def State.readWith (P : Params) (s : State) (a : Word) : Word := Memory.readWith P.memInit s.mem a

/-- The Word held in cell `a`. -/
def State.read (s : State) (a : Word) : Word := s.readWith Config.machine a

/-- Write `v` to cell `a`. -/
def State.write (s : State) (a v : Word) : State := { s with mem := Memory.write s.mem a v }

/-- `A <- v` (10_state R12). -/
def State.setA (s : State) (v : Word) : State := { s with a := v }

/-- `C <- v` (10_state R13). -/
def State.setC (s : State) (v : Word) : State := { s with c := v }

/-- `D <- v` (10_state R14). -/
def State.setD (s : State) (v : Word) : State := { s with d := v }

/-! ### The cycle -/

/-- Fetch and decode: `decoded <- residue(mem[C], C)` and its row of the opcode map (43_execution_cycle R126 step 1). -/
def State.fetchWith (P : Params) (s : State) : Instr := decodeWith P.decodeWrap (s.readWith P s.c) s.c

/-- Fetch and decode in the machine's instance. -/
def State.fetch (s : State) : Instr := s.fetchWith Config.machine

/-- The cipher substitution under a given table: `encrypt(w mod 94)` (42_decode_encrypt R112, R114). -/
def encryptWith (enc : Residue → Byte) (w : Word) : Word :=
  Word.ofByte (enc ⟨w.val % 94, Nat.mod_lt _ (by decide)⟩)

/-- The cipher substitution under the machine's `ENC` (42_decode_encrypt R113). -/
def encrypt (w : Word) : Word := encryptWith Config.enc w

/-- The write-back: a fresh read of the cell at the current `C`, replaced by its substitute (42_decode_encrypt R114). -/
def State.writeBackWith (P : Params) (s : State) : State := s.write s.c (encryptWith P.enc (s.readWith P s.c))

/-- The write-back in the machine's instance. -/
def State.writeBack (s : State) : State := s.writeBackWith Config.machine

/-- The advance: `C` and `D` each incremented modulo 59049 (43_execution_cycle R127). -/
def State.advance (s : State) : State := { s with c := Alu.inc s.c, d := Alu.inc s.d }

/-- The counter: `CYCLES <- CYCLES + 1` (43_execution_cycle R129). -/
def State.count (s : State) : State := { s with cycles := s.cycles + 1 }

/-- Step 3 of a cycle that was not halted, held or faulted: write-back, advance, count (43_execution_cycle R126). -/
def State.completeCycleWith (P : Params) (s : State) : State := (s.writeBackWith P).advance.count

/-- Step 3 of a cycle in the machine's instance. -/
def State.completeCycle (s : State) : State := s.completeCycleWith Config.machine

/-! ### Phases, faults, refusals -/

/-- `PHASE <- RUNNING` (41_loader R101). -/
def State.enterRunning (s : State) : State := { s with phase := .running }

/-- The successful end: `PHASE <- HALTED` and nothing else (43_execution_cycle R128). -/
def State.enterHalted (s : State) : State := { s with phase := .halted }

/-- Taking a fault: `FAULT <- (kind, info)`, `PHASE <- FAULTED`, nothing else committed (60_exceptions R178).
There is no return from it but reset (R179). Log entry 7. -/
def State.raiseFault (f : Fault) (s : State) : State := { s with fault := some f, phase := .faulted }

/-- Refusing an input: the mark `REFUSED` is set with its reason and nothing else changes (41_loader R98,
60_exceptions R175). Log entry 10. -/
def State.refuse (r : RefuseReason) (s : State) : State := { s with refused := some r }

/-- The step of phase HALTED: no cycle executes and nothing changes (43_execution_cycle R130). Log entry 9. -/
def haltedStep (s : State) : Result := .next s

/-- The step of phase FAULTED: none is enabled; the answer is the recorded fault (60_exceptions R178, R179). With no
record, which no run reaches, nothing changes. Log entry 7. -/
def faultedStep (s : State) : Result :=
  match s.fault with
  | some f => .fault f
  | none => .next s

/-! ### Streams -/

/-- The next byte of `IN`, if one has been supplied (46_io R163). -/
def State.nextByte (s : State) : Option Byte := s.inStream[s.inPos]?

/-- Move the read position of `IN` by one byte: the second half of `take_byte()` (46_io R163). -/
def State.dropByte (s : State) : State := { s with inPos := s.inPos + 1 }

/-- `emit(x)`: append one symbol to `OUT` (46_io R160, R162). -/
def State.emit (x : OutSym) (s : State) : State := { s with out := s.out ++ [x] }

/-- `A mod 128`, the 7-bit code of a Word (46_io R160). -/
def code7 (w : Word) : Code7 := ⟨w.val % 128, Nat.mod_lt _ (by decide)⟩

/-- `outsym(c)` under a given `VALID7` (46_io R162). -/
def outsymWith (valid : Code7 → Bool) (c : Code7) : OutSym := if valid c then .char7 c else .repl

/-- `outsym(c)` under the machine's `VALID7` (46_io R162). -/
def outsym (c : Code7) : OutSym := outsymWith Config.valid7 c

/-- `parse(s)` as a function: a Word, or the reason `MalformedTernaryText` (40_ternary_alu R79). -/
def parse (text : List Char) : Except RefuseReason Word :=
  match Alu.parseText text with
  | some w => .ok w
  | none => .error .malformedTernaryText

/-- Set the mark `REFUSED` unless it is set already: "once set it stays set" (10_state R19). -/
def State.markRefused (r : RefuseReason) (s : State) : State :=
  match s.refused with
  | none => s.refuse r
  | some _ => s

/-- A use of `parse` beside the machine: a well-formed text gives its Word and changes nothing; any other argument is a
refused input, which sets the mark `REFUSED` with the reason `MalformedTernaryText` and gives no Word (40_ternary_alu R79,
60_exceptions R175). Log entry 10. -/
def State.parseArgument (text : List Char) (s : State) : State × Option Word :=
  match parse text with
  | .ok w => (s, some w)
  | .error r => (s.markRefused r, none)

end Sys2Proof.Machine
end

