-- ==== Sys2Proof/Machine/Operands.lean ====
section
/-!
DEFINITION. The one addressing mode: "the cell whose address is in D", no offset, no index, whole Words only
(30_encoding R54, 45_data). The hardware has no flag, so there is no file of flag computations (10_state R21).
-/

namespace Sys2Proof.Machine

/-- The effective address of the memory operand: `D` itself (45_data). -/
def State.operandAddr (s : State) : Word := s.d

/-- The memory operand's value, `mem[D]`, in the instance `P`. -/
def State.operandWith (P : Params) (s : State) : Word := s.readWith P s.operandAddr

/-- The memory operand's value, `mem[D]`. -/
def State.operand (s : State) : Word := s.operandWith Config.machine

/-- Store a Word to the memory operand, `mem[D] <- v`. -/
def State.storeOperand (v : Word) (s : State) : State := s.write s.operandAddr v

/-- The store of Rot and Crz: `mem[D] <- v`, then `A <- v` (45_data R150, R152). -/
def State.storeBoth (v : Word) (s : State) : State := (s.storeOperand v).setA v

end Sys2Proof.Machine
end

