-- ==== Sys2Proof/Machine/Control.lean ====
section
/-!
DEFINITION. The control instructions (44_control): Jmp, Nop, End and the unassigned residues.
-/

namespace Sys2Proof.Machine

/-- Jmp (44_control R140): `C <- mem[D]`, then the write-back on the target, then the advance. -/
def execJmpWith (P : Params) (s : State) : Result := .next ((s.setC (s.operandWith P)).completeCycleWith P)

/-- Jmp in the machine's instance. -/
def execJmp (s : State) : Result := execJmpWith Config.machine s

/-- Nop (44_control R141): no effect but the cycle's own write-back and advance. -/
def execNopWith (P : Params) (s : State) : Result := .next (s.completeCycleWith P)

/-- Nop in the machine's instance. -/
def execNop (s : State) : Result := execNopWith Config.machine s

/-- End (44_control R142): `PHASE <- HALTED`; no write-back, no advance, no count. No parameter enters. -/
def execEnd (s : State) : Result := .next s.enterHalted

/-- NOPX (44_control R143): an unassigned residue acts as Nop, whichever it is. -/
def execNopxWith (P : Params) (_r : Residue) (s : State) : Result := .next (s.completeCycleWith P)

/-- NOPX in the machine's instance. -/
def execNopx (r : Residue) (s : State) : Result := execNopxWith Config.machine r s

end Sys2Proof.Machine
end

