-- ==== Sys2Proof/Machine/Data.lean ====
section
/-!
DEFINITION. The data instructions (45_data): Rot, SetD, Crz.
-/

namespace Sys2Proof.Machine

/-- Rot (45_data R150): `mem[D]` and `A` take `rotate(mem[D])`. -/
def execRotWith (P : Params) (s : State) : Result :=
  .next ((s.storeBoth (Alu.rotate (s.operandWith P))).completeCycleWith P)

/-- Rot in the machine's instance. -/
def execRot (s : State) : Result := execRotWith Config.machine s

/-- SetD (45_data R151): `D <- mem[D]`. -/
def execSetDWith (P : Params) (s : State) : Result := .next ((s.setD (s.operandWith P)).completeCycleWith P)

/-- SetD in the machine's instance. -/
def execSetD (s : State) : Result := execSetDWith Config.machine s

/-- Crz (45_data R152): `mem[D]` and `A` take `combine(mem[D], A)`, the memory Word first. -/
def execCrzWith (P : Params) (s : State) : Result :=
  .next ((s.storeBoth (Alu.combine (s.operandWith P) s.a)).completeCycleWith P)

/-- Crz in the machine's instance. -/
def execCrz (s : State) : Result := execCrzWith Config.machine s

end Sys2Proof.Machine
end

