-- ==== Sys2Proof/Machine/Io.lean ====
section
/-!
DEFINITION. The input and output instructions (46_io): Out and In.
-/

namespace Sys2Proof.Machine

/-- Out (46_io R160): one symbol, that of `A mod 128`, is appended to `OUT`. -/
def execOutWith (P : Params) (s : State) : Result :=
  .next ((s.emit (outsymWith P.valid7 (code7 s.a))).completeCycleWith P)

/-- Out in the machine's instance. -/
def execOut (s : State) : Result := execOutWith Config.machine s

/-- In (46_io R161): `A` takes the next byte of `IN`; at end of input the fault `InputExhausted` is taken; with no
byte yet and no end mark the machine holds, a next state that is the same state (log entry 8). -/
def execInWith (P : Params) (s : State) : Result :=
  match s.nextByte with
  | some b => .next ((s.dropByte.setA (Word.ofByte b)).completeCycleWith P)
  | none => if s.inEnded then .next (s.raiseFault .inputExhausted) else .next s

/-- In in the machine's instance. -/
def execIn (s : State) : Result := execInWith Config.machine s

end Sys2Proof.Machine
end

