-- ==== Sys2Proof/Machine/Dispatch.lean ====
section
/-!
DEFINITION. The dispatch of one decoded instruction to its meaning: a whole cycle from dispatch on.
-/

namespace Sys2Proof.Machine

def exec (i : Instr) (s : State) : Host.Outcome State Fault Refusal :=
  match i with
  | .jmp => Sys2Proof.Machine.execJmp s
  | .out => Sys2Proof.Machine.execOut s
  | .inp => Sys2Proof.Machine.execIn s
  | .rot => Sys2Proof.Machine.execRot s
  | .setD => Sys2Proof.Machine.execSetD s
  | .crz => Sys2Proof.Machine.execCrz s
  | .nop => Sys2Proof.Machine.execNop s
  | .halt => Sys2Proof.Machine.execEnd s
  | .nopx r => Sys2Proof.Machine.execNopx r s

end Sys2Proof.Machine
end

