-- ==== Sys2Proof/Machine/Loader.lean ====
section
/-!
DEFINITION. The program loader, the boot sequencer of phase LOADING (41_loader). One step consumes one item of the
`LOAD` stream.
-/

namespace Sys2Proof.Machine

/-- Drop the item at the head of `LOAD`, the rest of the stream being `rest`. -/
def State.consume (rest : List LoadItem) (s : State) : State := { s with load := rest }

/-- Store a legal character's Word at `LPOS` and count it: `mem[i] <- ch`, `i <- i + 1` (41_loader R94). -/
def State.storeChar (v : Word) (rest : List LoadItem) (s : State) : State :=
  { s with mem := Memory.write s.mem (Word.ofNat s.lpos) v, lpos := s.lpos + 1, load := rest }

/-- The legality check and the store of a character whose code is the Word `v` (41_loader R93, R94, R95). -/
def checkAndStoreWith (wrap : Bool) (v : Word) (rest : List LoadItem) (s : State) : State :=
  if legal (residueWith wrap v (Word.ofNat s.lpos)) then s.storeChar v rest
  else s.raiseFault (.loadInvalidOpcode (residueWith wrap v (Word.ofNat s.lpos)))

/-- One character in the instance `P`: whitespace, then the length, then the range, then legality
(41_loader R91, R98, R93; the order is R98's, D27). -/
def loadCharWith (P : Params) (ch : Int) (rest : List LoadItem) (s : State) : State :=
  if P.isWs ch then s.consume rest
  else if 59049 ≤ s.lpos then s.refuse .imageTooLong
  else if ch < 0 ∨ 59048 < ch then s.refuse .charOutOfRange
  else checkAndStoreWith P.decodeWrap (Word.ofNat ch.toNat) rest s

/-- One character in the machine's instance. -/
def loadChar (ch : Int) (rest : List LoadItem) (s : State) : State := loadCharWith Config.machine ch rest s

/-- Completion: the tail is filled, `LOADED_LEN <- L`, `PHASE <- RUNNING` (41_loader R96, R99, R101). -/
def State.finishLoadWith (P : Params) (rest : List LoadItem) (s : State) : State :=
  { s with mem := Memory.fillTailWith P.memInit s.mem s.lpos, loadedLen := s.lpos, phase := .running, load := rest }

/-- Completion in the machine's instance. -/
def State.finishLoad (rest : List LoadItem) (s : State) : State := s.finishLoadWith Config.machine rest

/-- The end-of-text mark: an empty text is refused, any other is completed (41_loader R98 a, R100). -/
def endTextWith (P : Params) (rest : List LoadItem) (s : State) : State :=
  if s.lpos = 0 then s.refuse .emptyImage else s.finishLoadWith P rest

/-- The end-of-text mark in the machine's instance. -/
def endText (rest : List LoadItem) (s : State) : State := endTextWith Config.machine rest s

/-- One step of phase LOADING (41_loader R100). Once `REFUSED` is set no step is enabled (log entry 10); with nothing
on `LOAD` there is no step to make, and the answer is the same state (log entry 11). -/
def loadStepWith (P : Params) (s : State) : Result :=
  match s.refused with
  | some r => .refused (.refusedInput r)
  | none =>
    match s.load with
    | [] => .next s
    | .char ch :: rest => .next (loadCharWith P ch rest s)
    | .endOfText :: rest => .next (endTextWith P rest s)

/-- One step of phase LOADING in the machine's instance. -/
def loadStep (s : State) : Result := loadStepWith Config.machine s

end Sys2Proof.Machine
end

