-- ==== Sys2Proof/Machine/Step.lean ====
section
/-!
DEFINITION. One step of the machine, by phase (10_state R16, 43_execution_cycle R125), and the placing of a table word
where the next step fetches.
-/

namespace Sys2Proof.Machine

/-- One step: a loader item in LOADING, a whole cycle in RUNNING (43_execution_cycle R126), nothing in HALTED, the
recorded fault in FAULTED. -/
def step (s : State) : Host.Outcome State Fault Refusal :=
  match s.phase with
  | .loading => loadStep s
  | .running => exec s.fetch s
  | .halted => haltedStep s
  | .faulted => faultedStep s

/-- `s` in phase RUNNING with the cell at `C` holding the Word whose decode sum with `C` is the table word `w`, so that
the next step fetches and runs the instruction `decodeTableWord` reads from `w`. At `C = 0`, as after reset, the cell
holds `w` itself. It stands for a load that has completed; a `w` that is no Word changes nothing. Log entry 14. -/
def State.withFetchWord (s : State) (_nbits w : Nat) : State :=
  if w < 59049 then (s.write s.c (Word.ofNat (w + (59049 - s.c.val)))).enterRunning else s

end Sys2Proof.Machine
end

