-- ==== Sys2Proof/Machine/Instance.lean ====
section
/-!
DEFINITION. The machine as a function of its open parameters (00_scope R4, 92_eei_decisions): dispatch, step and run of
any instance. `exec` and `step` are those of the instance `Config.machine`, arm by arm.
-/

namespace Sys2Proof.Machine

/-- The dispatch of one decoded instruction in the instance `P` (30_encoding R52, R53). -/
def execWith (P : Params) (i : Instr) (s : State) : Result :=
  match i with
  | .jmp => execJmpWith P s
  | .out => execOutWith P s
  | .inp => execInWith P s
  | .rot => execRotWith P s
  | .setD => execSetDWith P s
  | .crz => execCrzWith P s
  | .nop => execNopWith P s
  | .halt => execEnd s
  | .nopx r => execNopxWith P r s

/-- One step of the instance `P`, by phase (43_execution_cycle R125). -/
def stepWith (P : Params) (s : State) : Result :=
  match s.phase with
  | .loading => loadStepWith P s
  | .running => execWith P (s.fetchWith P) s
  | .halted => haltedStep s
  | .faulted => faultedStep s

/-- The instance `P` behind the host's interface, so that `Host.Core.run` runs it. -/
def coreWith (P : Params) : Host.Core :=
  { State := State, Fault := Fault, Refusal := Refusal, step := stepWith P, reset := State.reset }

end Sys2Proof.Machine
end

