-- ==== Sys2Proof/Machine/Environment.lean ====
section
/-!
DEFINITION. What the outside world can do between two steps (46_io R164, 70_reset_and_hazards R191): reset, supply
items of `LOAD`, supply bytes of `IN`, set the end-of-input mark; and what it can read, `STATUS` (00_scope R8).
-/

namespace Sys2Proof.Machine

/-- The RESET event: every engine register and memory as 10_state R26 says, the streams untouched
(70_reset_and_hazards R190, R192). -/
def State.resetEvent (s : State) : State :=
  { State.reset with
    load := s.load, inStream := s.inStream, inPos := s.inPos, inEnded := s.inEnded, out := s.out }

/-- A move of the environment (46_io R164). -/
inductive EnvMove where
  /-- Assert `RESET`, in any phase. -/
  | reset
  /-- Put one character code or the end-of-text mark on `LOAD`. -/
  | supplyLoad (x : LoadItem)
  /-- Take back what is left of an old text and present a new one, ended by its mark. -/
  | presentText (codes : List Int)
  /-- Supply one byte on `IN`. -/
  | supplyByte (b : Byte)
  /-- Mark the end of `IN`. -/
  | endInput
  deriving DecidableEq, Repr

/-- The effect of a move. A byte after the end mark is no move the environment has (46_io R163) and changes nothing.
Log entry 16. -/
def State.applyMove (m : EnvMove) (s : State) : State :=
  match m with
  | .reset => s.resetEvent
  | .supplyLoad x => { s with load := s.load ++ [x] }
  | .presentText codes => { s with load := codes.map LoadItem.char ++ [LoadItem.endOfText] }
  | .supplyByte b => if s.inEnded then s else { s with inStream := s.inStream ++ [b] }
  | .endInput => { s with inEnded := true }

/-- What the environment can read on `STATUS` (00_scope R8, 46_io R164). -/
structure Status where
  phase : Phase
  fault : Option Fault
  cycles : Nat
  loadedLen : Nat
  deriving DecidableEq, Repr

/-- The `STATUS` values of a state. -/
def State.status (s : State) : Status :=
  { phase := s.phase, fault := s.fault, cycles := s.cycles, loadedLen := s.loadedLen }

/-- One event of a run: a step of the machine, a move of the environment between two steps, or a use of the test aid
`parse` between two steps (40_ternary_alu R79, D25). -/
inductive Event where
  | step
  | env (m : EnvMove)
  | parse (text : List Char)
  deriving DecidableEq, Repr

/-- One event's outcome in the instance `P`. -/
def runEventWith (P : Params) (e : Event) (s : State) : Result :=
  match e with
  | .step => stepWith P s
  | .env m => .next (s.applyMove m)
  | .parse text => .next (s.parseArgument text).1

/-- A run of the instance `P` with an environment: the events in order, stopping at the first fault or refusal. -/
def runEventsWith (P : Params) : List Event → State → Result
  | [], s => .next s
  | e :: rest, s =>
    match runEventWith P e s with
    | .next t => runEventsWith P rest t
    | .fault f => .fault f
    | .refused r => .refused r

/-- One event's outcome. -/
def runEvent (e : Event) (s : State) : Result :=
  match e with
  | .step => step s
  | .env m => .next (s.applyMove m)
  | .parse text => .next (s.parseArgument text).1

/-- A run with an environment: the events in order, stopping at the first fault or refusal. -/
def runEvents : List Event → State → Result
  | [], s => .next s
  | e :: rest, s =>
    match runEvent e s with
    | .next t => runEvents rest t
    | .fault f => .fault f
    | .refused r => .refused r

end Sys2Proof.Machine
end

