-- ==== Sys2Proof/Machine/Outcome.lean ====
section
/-!
DEFINITION. The four outcomes of a step (00_scope R7), read off what `step` answers: a next state, a fault, a refusal, or
a hold, which only In waiting for a byte has.
-/

namespace Sys2Proof.Machine

/-- The outcomes of 00_scope R7. -/
inductive StepOutcome where
  /-- A new state. -/
  | next (t : State)
  /-- One of the fatal conditions: the step that takes the fault, whose next state is in FAULTED. -/
  | fault (f : Fault)
  /-- An input the spec gives no meaning: the step that sets `REFUSED`. -/
  | refuse (r : RefuseReason)
  /-- In waits for a byte. -/
  | hold
  deriving DecidableEq, Repr

/-- The step of a running instance is a hold: "only the `In` instruction waiting for a byte" (00_scope R7, 46_io R161,
60_exceptions R184). Such a step's answer is the same state (log entry 8). -/
def State.heldWith (P : Params) (s : State) : Bool :=
  decide (s.phase = .running) && decide (s.fetchWith P = .inp) && s.nextByte.isNone && !s.inEnded

/-- The step is a hold, in the machine's instance. -/
def State.held (s : State) : Bool := s.heldWith Config.machine

/-- In LOADING the environment has put nothing on `LOAD` yet: there is no character to make a step on, and loading does
not complete (46_io R164). It is no hold of R7. Log entry 11. -/
def State.awaitsLoad (s : State) : Bool :=
  decide (s.phase = .loading) && s.refused.isNone && s.load.isEmpty

/-- A step has an outcome: not in HALTED or FAULTED (43_execution_cycle R130, 60_exceptions R179), not once an input is
refused (R175), not while LOADING has no item. -/
def State.enabled (s : State) : Bool :=
  match s.phase with
  | .loading => s.refused.isNone && !s.load.isEmpty
  | .running => true
  | .halted => false
  | .faulted => false

/-- The outcome that a step's next state shows: a fault is recorded in FAULTED, a refusal in LOADING. -/
def StepOutcome.ofNext (t : State) : Option StepOutcome :=
  match t.phase, t.fault, t.refused with
  | .faulted, some f, _ => some (.fault f)
  | .faulted, none, _ => none
  | .loading, _, some r => some (.refuse r)
  | .loading, _, none => some (.next t)
  | .running, _, _ => some (.next t)
  | .halted, _, _ => some (.next t)

/-- The outcome of the step of the instance `P` at `s`; `none` where no step is enabled. -/
def outcomeWith (P : Params) (s : State) : Option StepOutcome :=
  if !s.enabled then none
  else if s.heldWith P then some .hold
  else
    match stepWith P s with
    | .next t => StepOutcome.ofNext t
    | .fault f => some (.fault f)
    | .refused _ => none

/-- The outcome of the machine's step. -/
def outcome (s : State) : Option StepOutcome := outcomeWith Config.machine s

end Sys2Proof.Machine
end

