-- ==== Sys2Proof/Safety.lean ====
section
/-!
DEFINITION. What counts as an ended and a successful run (43_execution_cycle R136), and the invariant of the machine:
which combinations of its state the spec allows.
-/

namespace Sys2Proof.Machine

/-- A run is over: `PHASE` is HALTED or FAULTED (43_execution_cycle R136). -/
def State.over (s : State) : Bool := decide (s.phase = .halted) || decide (s.phase = .faulted)

/-- The successful end of a run: HALTED, never FAULTED (43_execution_cycle R136). -/
def State.succeeded (s : State) : Bool := decide (s.phase = .halted)

/-- The memory the loader has built so far: exactly the addresses below `LPOS` are written, each with a Word whose
residue there is legal in the instance `P` (41_loader R93, R94). -/
def State.ImageLegalWith (P : Params) (s : State) : Prop :=
  ∀ k : Word,
    (k.val < s.lpos → ∃ v, Memory.lookup s.mem k = some v ∧ legal (residueWith P.decodeWrap v k) = true) ∧
    (s.lpos ≤ k.val → Memory.lookup s.mem k = none)

/-- The loaded prefix is legal in the machine's instance. -/
abbrev State.ImageLegal (s : State) : Prop := s.ImageLegalWith Config.machine

/-- Every cell has been written since reset, so that no read depends on `MEM_INIT` any more (70_reset_and_hazards R195). -/
def State.FullyWritten (s : State) : Prop := ∀ k : Word, (Memory.lookup s.mem k).isSome = true

/-- The invariant of the state of the instance `P`. -/
structure State.InvWith (P : Params) (s : State) : Prop where
  /-- Memory keeps its canonical form. -/
  memWf : Memory.wf s.mem = true
  /-- `LPOS` is 0 to 59049 (10_state R17). -/
  lposLe : s.lpos ≤ 59049
  /-- The read position of `IN` is within what has been supplied (46_io R163). -/
  inPosLe : s.inPos ≤ s.inStream.length
  /-- `FAULT` is recorded exactly in phase FAULTED (10_state R19). -/
  faultIff : s.phase = .faulted ↔ s.fault.isSome = true
  /-- InvariantViolation is never recorded (60_exceptions R173). -/
  faultKind : s.fault ≠ some .invariantViolation
  /-- The loader's reasons stand in `REFUSED` in phase LOADING only: loading does not complete (41_loader R98). A malformed
  argument of `parse`, which no step uses, can set the mark in any phase (60_exceptions R175). -/
  refusedLoading : s.refused = none ∨ s.refused = some .malformedTernaryText ∨ s.phase = .loading
  /-- No instruction runs in LOADING: the registers and the counter are as reset left them (10_state R25). -/
  loadingRegs : s.phase = .loading → s.a = 0 ∧ s.c = 0 ∧ s.d = 0 ∧ s.cycles = 0
  /-- In LOADING memory is the legal prefix loaded so far. -/
  loadingImage : s.phase = .loading → s.ImageLegalWith P
  /-- Once loading has completed, `LOADED_LEN` is the number of characters stored, at least 1 (41_loader R98, R99). -/
  loadedLen : s.phase = .running ∨ s.phase = .halted → s.loadedLen = s.lpos ∧ 1 ≤ s.lpos
  /-- Once loading has completed, every cell is written (70_reset_and_hazards R195). -/
  loadedMem : s.phase = .running ∨ s.phase = .halted → s.FullyWritten

/-- The invariant of the machine's state. -/
abbrev State.Inv (s : State) : Prop := s.InvWith Config.machine

end Sys2Proof.Machine
end

