-- ==== Sys2Proof/Certificates/Slice0/Obligations.lean ====
section
/-!
DEFINITION. The statements for the provers, from the numbered rules of spec/. They say values as numbers and cells, not
by the functions that compute them in the machine, where the rule gives the number.
-/

namespace Sys2Proof.Frame

open Sys2Proof.Machine

/-- `w{k}` as a number: `floor(w / 3^k) mod 3` (00_scope R5). -/
def trit (w : Word) (k : Nat) : Nat := w.val / 3 ^ k % 3

/-- The grid of 40_ternary_alu R72: row the digit of the first operand, column the digit of the second. -/
def grid (x y : Nat) : Nat := (([[1, 0, 0], [1, 0, 2], [2, 2, 1]] : List (List Nat)).getD x []).getD y 0

/-- `ENC(w mod 94)` as a number (42_decode_encrypt R114). -/
def ciphered (w : Word) : Nat := (Config.enc (Fin.ofNat 94 w.val)).val

/-- What no instruction but End and a faulting In touches: the phase, the loader's state, the records, and what the
environment owns of the streams. -/
def SameStatus (s t : State) : Prop :=
  t.phase = s.phase ∧ t.lpos = s.lpos ∧ t.loadedLen = s.loadedLen ∧ t.fault = s.fault ∧ t.refused = s.refused ∧
  t.load = s.load ∧ t.inStream = s.inStream ∧ t.inEnded = s.inEnded

/-- The end of a completed cycle (43_execution_cycle R127, R129): C and D are one more, modulo 59049, than the values
`c` and `d` dispatch left, and the cycle is counted. -/
def Advanced (s t : State) (c d : Word) : Prop :=
  t.c.val = (c.val + 1) % 59049 ∧ t.d.val = (d.val + 1) % 59049 ∧ t.cycles = s.cycles + 1

/-- Nothing was read from IN and nothing written to OUT. -/
def SameIo (s t : State) : Prop := t.inPos = s.inPos ∧ t.out = s.out

/-- IN, its read position and end mark, and OUT are as they were: the streams a loader step leaves alone (41_loader R90). -/
def SameStreams (s t : State) : Prop :=
  t.inStream = s.inStream ∧ t.inPos = s.inPos ∧ t.inEnded = s.inEnded ∧ t.out = s.out

/-- Memory after a cycle whose only write is the write-back of the cell at `x` (42_decode_encrypt R114): that cell holds
the substitute of what it held, every other cell reads as before. -/
def OnlyRewrites (s t : State) (x : Word) : Prop :=
  (t.read x).val = ciphered (s.read x) ∧ ∀ y, y ≠ x → t.read y = s.read y

/-- Memory after a cycle that stored `v` to the cell at `d` and then rewrote the cell at `c` (20_memory R38): with
`d = c` that cell holds the substitute of `v`; else `d` holds `v` and `c` the substitute of what it held. -/
def StoresAndRewrites (s t : State) (d c v : Word) : Prop :=
  (d = c → (t.read c).val = ciphered v) ∧
  (d ≠ c → t.read d = v ∧ (t.read c).val = ciphered (s.read c)) ∧
  ∀ y, y ≠ d → y ≠ c → t.read y = s.read y

/-- In phase RUNNING, with the cell at C of residue `key`, `t` is what the step leads to: the encoding of the
instruction, 30_encoding R51, R52. -/
def ReachedAt (s t : State) (key : Nat) : Prop :=
  s.phase = .running → (residue (s.read s.c) s.c).val = key → step s = .next t

/-- The pieces of state an instruction can act on (10_state R21, R24): registers, memory, the input stream, the output. -/
def SameMachine (s t : State) : Prop :=
  t.a = s.a ∧ t.c = s.c ∧ t.d = s.d ∧ t.mem = s.mem ∧ t.inStream = s.inStream ∧ t.inPos = s.inPos ∧
  t.inEnded = s.inEnded ∧ t.out = s.out

/-- The loop of 41_loader R100 over `n` addresses from `j` on, written with the two accessors. -/
def fillLoop : Nat → Nat → Memory → Memory
  | 0, _, m => m
  | n + 1, j, m =>
    fillLoop n (j + 1)
      (Memory.write m (Word.ofNat j)
        (Alu.combine (Memory.read m (Alu.pred (Alu.pred (Word.ofNat j)))) (Memory.read m (Alu.pred (Word.ofNat j)))))

/-- The significant characters of a text: those the loader does not strip (41_loader R91). -/
def significant (codes : List Int) : List Int := codes.filter fun ch => !Config.isWs ch

/-- A character code that is a Word and passes the legality check at position `k` (41_loader R93, R98). -/
def LegalAt (ch : Int) (k : Nat) : Prop :=
  0 ≤ ch ∧ ch ≤ 59048 ∧ legal (residue (Word.ofNat ch.toNat) (Word.ofNat k)) = true

/-- Every significant character of a list is legal at its position. -/
def AllLegal (sig : List Int) : Prop := ∀ k ch, sig[k]? = some ch → LegalAt ch k

/-- A state whose loader has consumed nothing yet (10_state R26). -/
def FreshLoader (s : State) : Prop :=
  s.phase = .loading ∧ s.refused = none ∧ s.lpos = 0 ∧ Memory.wf s.mem = true

end Sys2Proof.Frame

open Sys2Proof Sys2Proof.Machine Sys2Proof.Frame

/-! ### The Ternary Word ALU -/

/-- 40_ternary_alu R72, R73: the table is the grid, and combine applies it to each aligned digit pair. -/
def Obligations.CombineAppliesTheGridToEachDigitPair : Prop :=
  (∀ x y : Trit, (Alu.crz1 x y).val = grid x.val y.val) ∧
  ∀ a b : Word, ∀ k, k < 10 → trit (Alu.combine a b) k = grid (trit a k) (trit b k)

/-- 40_ternary_alu R75, R80 b: rotate's number, its digits, and that ten rotations are the identity, so that it is a
bijection. -/
def Obligations.RotateMovesTheLastDigitToTheFront : Prop :=
  (∀ w : Word, (Alu.rotate w).val = w.val / 3 + w.val % 3 * 19683 ∧
    (∀ k, k < 9 → trit (Alu.rotate w) k = trit w (k + 1)) ∧ trit (Alu.rotate w) 9 = trit w 0 ∧
    Alu.rotate^[10] w = w) ∧
  Function.Bijective Alu.rotate

/-- 40_ternary_alu R71: digits and undigits are inverse bijections between Words and 10-digit lists. -/
def Obligations.DigitsAndUndigitsAreInverse : Prop :=
  (∀ w : Word, (Alu.digits w).length = 10 ∧ Alu.undigits (Alu.digits w) = w ∧
    ∀ k (d : Trit), (Alu.digits w)[k]? = some d → d.val = trit w k) ∧
  ∀ ds : List Trit, ds.length = 10 → Alu.digits (Alu.undigits ds) = ds

/-- 40_ternary_alu R78, R79: the j-th character is the digit w{9-j}; parse undoes render; parse
accepts every text of 10 characters 0, 1, 2, and render gives that text back; parse refuses any other: its use
sets REFUSED to MalformedTernaryText, or leaves the reason already there, changes nothing else and gives no Word. The
refusal is the spec's own decision D25, and that parse is used beside the machine's steps is the model's form (log entry
10). -/
def Obligations.TernaryTextRoundTrips : Prop :=
  (∀ w : Word, (Alu.render w).length = 10 ∧
    (∀ j, j < 10 → (Alu.render w)[j]? = some (Alu.digitChar (Alu.digit w (9 - j)))) ∧
    parse (Alu.render w) = .ok w ∧ ∀ s : State, s.parseArgument (Alu.render w) = (s, some w)) ∧
  (∀ text : List Char, text.length = 10 → (∀ ch ∈ text, ch = '0' ∨ ch = '1' ∨ ch = '2') →
    ∃ w, parse text = .ok w ∧ Alu.render w = text ∧ ∀ s : State, s.parseArgument text = (s, some w)) ∧
  ∀ text : List Char,
    ¬(text.length = 10 ∧ ∀ ch ∈ text, ch = '0' ∨ ch = '1' ∨ ch = '2') → parse text = .error .malformedTernaryText ∧
      ∀ s : State,
        (s.refused = none → s.parseArgument text = ({ s with refused := some .malformedTernaryText }, none)) ∧
        (s.refused ≠ none → s.parseArgument text = (s, none))

/-- 40_ternary_alu R81 b: rotate commutes with combine. -/
def Obligations.RotateCommutesWithCombine : Prop :=
  ∀ a b : Word, Alu.rotate (Alu.combine a b) = Alu.combine (Alu.rotate a) (Alu.rotate b)

/-! ### Encoding and decoding -/

/-- 30_encoding R51: the machine's residue is the wrapped reading; the two readings agree up to a sum of 59048 and the
plain one is 17 more, modulo 94, above it. That the machine takes the wrapped reading is the spec's decision D4
(log entry 4). -/
def Obligations.TheTwoReadingsOfTheDecodeSum : Prop :=
  ∀ v p : Word,
    residue v p = residueWith true v p ∧
    (residueWith false v p).val = (v.val + p.val) % 94 ∧
    (v.val + p.val ≤ 59048 → residueWith true v p = residueWith false v p) ∧
    (59049 ≤ v.val + p.val →
      (residueWith true v p).val = (v.val + p.val - 59049) % 94 ∧
      (residueWith false v p).val = ((residueWith true v p).val + 17) % 94)

/-- 30_encoding R52, R53: the residue selects the operation; the 86 residues not in LEGAL are NOPX and behave as Nop. -/
def Obligations.TheResidueSelectsTheOperation : Prop :=
  ∀ (v p : Word) (s : State),
    ((residue v p).val = 4 → decode v p = .jmp) ∧ ((residue v p).val = 5 → decode v p = .out) ∧
    ((residue v p).val = 23 → decode v p = .inp) ∧ ((residue v p).val = 39 → decode v p = .rot) ∧
    ((residue v p).val = 40 → decode v p = .setD) ∧ ((residue v p).val = 62 → decode v p = .crz) ∧
    ((residue v p).val = 68 → decode v p = .nop) ∧ ((residue v p).val = 81 → decode v p = .halt) ∧
    ((residue v p).val ∉ [4, 5, 23, 39, 40, 62, 68, 81] →
      decode v p = .nopx (residue v p) ∧ exec (decode v p) s = exec .nop s)

/-- Decode and encode agree on every well-formed instruction at every address (30_encoding R51, R52, R53, R56); which
of the cell values for an instruction the encoder gives is the model's choice (log entry 15). -/
def Obligations.DecodeOfEncodeIsTheInstruction : Prop :=
  ∀ i : Instr, i.wellFormed = true → ∀ p : Word, decode (encode i p) p = i

/-- Every Word at every address decodes to a well-formed instruction whose residue is the cell's own
(42_decode_encrypt R110), and encoding it again gives a cell of the same residue. -/
def Obligations.EveryCellDecodesToItsResidue : Prop :=
  ∀ v p : Word, (decode v p).wellFormed = true ∧ residueOf (decode v p) = residue v p ∧
    residue (encode (decode v p) p) p = residue v p

/-- 30_encoding R56: the cell values with a sum up to 59048 that decode to r are those congruent to r - p modulo 94;
code(r, p) is the only one among 33 to 126, and it decodes to r where its own sum with p is up to 59048. From 59049 on the
condition is that of the wrapped sum, under the plain reading that of the plain one. That the machine wraps is the spec's
own decision D4 (log entry 4). -/
def Obligations.CodeIsThePrintableInverseOfTheResidue : Prop :=
  ∀ (r : Residue) (p : Word),
    (∀ v : Word, v.val + p.val ≤ 59048 → (residue v p = r ↔ (v.val : Int) ≡ (r.val : Int) - (p.val : Int) [ZMOD 94])) ∧
    33 ≤ code r p ∧ code r p ≤ 126 ∧
    (∀ x : Nat, 33 ≤ x → x ≤ 126 → ((x : Int) ≡ (r.val : Int) - (p.val : Int) [ZMOD 94] ↔ x = code r p)) ∧
    (code r p + p.val ≤ 59048 → residue (Word.ofNat (code r p)) p = r) ∧
    ∀ v : Word, 59049 ≤ v.val + p.val →
      (residueWith true v p = r ↔ v.val + p.val - 59049 ≡ r.val [MOD 94]) ∧
      (residueWith false v p = r ↔ v.val + p.val ≡ r.val [MOD 94])

/-- Cells of the tables of 95_test_vectors 2.2, one of each family at least, decode as the table says. The last three have
a sum of 59049 or more and decode so under DECODE_WRAP = true, the table's column 'wrap', which is the spec's own decision
D4 (log entry 4, 70_reset_and_hazards R205). -/
def Obligations.TheSpecsCellsDecodeAsListed : Prop :=
  decode 97 1 = .jmp ∧ decode 99 0 = .out ∧ decode 117 0 = .inp ∧ decode 39 0 = .rot ∧ decode 40 0 = .setD ∧
  decode 60 2 = .crz ∧ decode 68 0 = .nop ∧ decode 78 3 = .halt ∧ decode 48 79 = .nopx 33 ∧
  decode 53 59000 = .jmp ∧ decode 69 59048 = .nop ∧ decode 59048 59048 = .nopx 15

/-- When the machine runs, a step is the meaning of the instruction that the cell at C decodes to (43_execution_cycle
R126); exec itself does the write-back, the advance and the count, and step adds nothing around it. -/
def Obligations.AStepRunsTheDecodedInstruction : Prop :=
  ∀ s : State, s.phase = .running → step s = exec (decode (s.read s.c) s.c) s

/-- The table word placed by withFetchWord is fetched and run (log entry 14): the model's convention. -/
def Obligations.ThePlacedWordIsFetchedAndRun : Prop :=
  ∀ (s : State) (nbits w : Nat) (i : Instr), decodeTableWord nbits w = some i →
    step (s.withFetchWord nbits w) = exec i (s.withFetchWord nbits w) ∧ (s.withFetchWord nbits w).c = s.c

/-! ### Memory -/

/-- Two canonical memories that list the same Word, or nothing, at every address are the same list (log entry 2). -/
def Obligations.CanonicalMemoriesAreExtensional : Prop :=
  ∀ m m' : Memory, Memory.wf m = true → Memory.wf m' = true →
    (∀ x, Memory.lookup m x = Memory.lookup m' x) → m = m'

/-- 41_loader R96, R97, R100: the tail fill is the loop that writes each address from the loaded length on with the
combine of its two predecessors. That their indices are taken modulo 59049 is the spec's own decision D6 (log entry 19). -/
def Obligations.TheTailFillIsTheLoaderLoop : Prop :=
  ∀ (m : Memory) (len : Nat), Memory.wf m = true → 1 ≤ len → len ≤ 59049 →
    Memory.fillTail m len = fillLoop (59049 - len) len m

/-! ### The instructions -/

/-- 44_control R140: C takes mem[D], the target cell is rewritten and stepped past, D advances, and nothing else
changes. -/
def Obligations.JmpRewritesItsTargetAndStepsPastIt : Prop :=
  ∀ s : State, ∃ t, exec .jmp s = .next t ∧ Advanced s t (s.read s.d) s.d ∧ t.a = s.a ∧
    OnlyRewrites s t (s.read s.d) ∧ SameIo s t ∧ SameStatus s t ∧ ReachedAt s t 4

/-- 44_control R141: Nop rewrites its own cell and advances, and nothing else changes. -/
def Obligations.NopRewritesItsCellAndAdvances : Prop :=
  ∀ s : State, ∃ t, exec .nop s = .next t ∧ Advanced s t s.c s.d ∧ t.a = s.a ∧ OnlyRewrites s t s.c ∧
    SameIo s t ∧ SameStatus s t ∧ ReachedAt s t 68

/-- 44_control R143: every unassigned residue rewrites its own cell and advances, as Nop does. -/
def Obligations.NopxRewritesItsCellAndAdvances : Prop :=
  ∀ (r : Residue) (s : State), ∃ t, exec (.nopx r) s = .next t ∧ Advanced s t s.c s.d ∧ t.a = s.a ∧
    OnlyRewrites s t s.c ∧ SameIo s t ∧ SameStatus s t ∧
    (r.val ∉ [4, 5, 23, 39, 40, 62, 68, 81] → ReachedAt s t r.val)

/-- 44_control R142, 43_execution_cycle R128: the phase becomes HALTED and nothing else happens: no write-back, no
increment, no count. -/
def Obligations.EndHaltsAndChangesNothingElse : Prop :=
  ∀ s : State, ∃ t, exec .halt s = .next t ∧ t.phase = .halted ∧ SameMachine s t ∧ t.cycles = s.cycles ∧
    t.lpos = s.lpos ∧ t.loadedLen = s.loadedLen ∧ t.fault = s.fault ∧ t.refused = s.refused ∧ t.load = s.load ∧
    ReachedAt s t 81

/-- 45_data R150: A and mem[D] take rotate(mem[D]); with D = C the write-back sees the rotated value; C and D advance. -/
def Obligations.RotRotatesTheCellAtD : Prop :=
  ∀ s : State, ∃ t, exec .rot s = .next t ∧ Advanced s t s.c s.d ∧
    t.a.val = (s.read s.d).val / 3 + (s.read s.d).val % 3 * 19683 ∧
    StoresAndRewrites s t s.d s.c t.a ∧ SameIo s t ∧ SameStatus s t ∧ ReachedAt s t 39

/-- 45_data R151: D takes mem[D] and advances; memory changes by the write-back only; A is unchanged. -/
def Obligations.SetDLoadsD : Prop :=
  ∀ s : State, ∃ t, exec .setD s = .next t ∧ Advanced s t s.c (s.read s.d) ∧ t.a = s.a ∧ OnlyRewrites s t s.c ∧
    SameIo s t ∧ SameStatus s t ∧ ReachedAt s t 40

/-- 45_data R152: A and mem[D] take the digit-wise combine of mem[D], first, and A, second; with D = C the write-back
sees the combined value; C and D advance. -/
def Obligations.CrzCombinesTheCellAtDWithA : Prop :=
  ∀ s : State, ∃ t, exec .crz s = .next t ∧ Advanced s t s.c s.d ∧
    (∀ k, k < 10 → trit t.a k = grid (trit (s.read s.d) k) (trit s.a k)) ∧
    StoresAndRewrites s t s.d s.c t.a ∧ SameIo s t ∧ SameStatus s t ∧ ReachedAt s t 62

/-- 46_io R160, R162: exactly one symbol is appended, Char7(A mod 128) where that code is valid and Repl where it is not;
codes 32 to 126 are valid (log entry 6); A is unchanged. -/
def Obligations.OutAppendsOneSymbol : Prop :=
  ∀ s : State, ∃ t x, exec .out s = .next t ∧ t.out = s.out ++ [x] ∧
    x = (if Config.valid7 (Fin.ofNat 128 s.a.val) = true then .char7 (Fin.ofNat 128 s.a.val) else .repl) ∧
    (32 ≤ s.a.val % 128 ∧ s.a.val % 128 ≤ 126 → x = .char7 (Fin.ofNat 128 s.a.val)) ∧
    Advanced s t s.c s.d ∧ t.a = s.a ∧ OnlyRewrites s t s.c ∧ t.inPos = s.inPos ∧ SameStatus s t ∧
    ReachedAt s t 5

/-- 46_io R161: with a byte available, A takes its value, the byte is consumed, and the cycle completes. -/
def Obligations.InTakesTheNextByte : Prop :=
  ∀ (s : State) (b : Byte), s.inStream[s.inPos]? = some b →
    ∃ t, exec .inp s = .next t ∧ t.a.val = b.val ∧ t.inPos = s.inPos + 1 ∧ Advanced s t s.c s.d ∧
      OnlyRewrites s t s.c ∧ t.out = s.out ∧ SameStatus s t ∧ ReachedAt s t 23

/-- 46_io R161, 60_exceptions R172, R178: at end of input In takes the fault InputExhausted, code 2 and information 0:
it is recorded, the phase becomes FAULTED, and nothing else changes. -/
def Obligations.InAtEndOfInputTakesItsFault : Prop :=
  ∀ s : State, s.inStream[s.inPos]? = none → s.inEnded = true →
    ∃ t f, exec .inp s = .next t ∧ t.phase = .faulted ∧ t.fault = some f ∧ f.code = 2 ∧ f.info = some 0 ∧
      SameMachine s t ∧ t.cycles = s.cycles ∧ t.lpos = s.lpos ∧ t.loadedLen = s.loadedLen ∧ t.refused = s.refused ∧
      t.load = s.load ∧ ReachedAt s t 23

/-- 46_io R161, 43_execution_cycle R131: with no byte yet and the stream not ended, In holds: nothing changes. -/
def Obligations.InWithNoByteHolds : Prop :=
  ∀ s : State, s.inStream[s.inPos]? = none → s.inEnded = false → exec .inp s = .next s ∧ ReachedAt s s 23

/-! ### Rules about the whole machine -/

/-- 42_decode_encrypt R114, R115, 43_execution_cycle R129: whatever the instruction, either the cycle completes, is
counted, is not End, and the cell just before the new C holds a value of the cipher table, at most 255; or nothing that
an instruction acts on has changed. -/
def Obligations.ACycleCompletesOrChangesNothing : Prop :=
  ∀ (i : Instr) (s t : State), exec i s = .next t →
    (t.cycles = s.cycles + 1 ∧ i ≠ .halt ∧ t.phase = s.phase ∧
      (t.read (Alu.pred t.c)).val ≤ 255 ∧
      ∃ k : Residue, (t.read (Alu.pred t.c)).val = (Config.enc k).val) ∨
    (t.cycles = s.cycles ∧ SameMachine s t ∧ (i = .halt ∨ i = .inp))

/-- 10_state R12, R13, R14: in phase RUNNING, A is written by In, Rot and Crz only; C moves otherwise than by one only
under Jmp; D moves otherwise than by one only under SetD. -/
def Obligations.OnlyTheListedInstructionsWriteEachRegister : Prop :=
  ∀ s t : State, s.phase = .running → step s = .next t →
    (t.a ≠ s.a → s.fetch = .inp ∨ s.fetch = .rot ∨ s.fetch = .crz) ∧
    (s.fetch ≠ .jmp → t.c = s.c ∨ t.c.val = (s.c.val + 1) % 59049) ∧
    (s.fetch ≠ .setD → t.d = s.d ∨ t.d.val = (s.d.val + 1) % 59049)

/-- 20_memory R43: in phase RUNNING a cell that changes is the one the write-back hits, just before the new C, or the
cell at D under Rot or Crz. -/
def Obligations.OnlyTheListedWritersChangeMemory : Prop :=
  ∀ s t : State, s.phase = .running → step s = .next t → ∀ x, t.read x ≠ s.read x →
    x = Alu.pred t.c ∨ (x = s.d ∧ (s.fetch = .rot ∨ s.fetch = .crz))

/-- 43_execution_cycle R133, 46_io R163: a step appends to OUT only under Out, and then one symbol; it takes a byte of IN
only under In, and then the next one; it never changes what the environment supplied. -/
def Obligations.StreamsMoveOnlyUnderOutAndIn : Prop :=
  ∀ s t : State, step s = .next t →
    t.inStream = s.inStream ∧ t.inEnded = s.inEnded ∧
    (t.out = s.out ∨ (s.phase = .running ∧ s.fetch = .out ∧ ∃ x, t.out = s.out ++ [x])) ∧
    (t.inPos = s.inPos ∨
      (s.phase = .running ∧ s.fetch = .inp ∧ t.inPos = s.inPos + 1 ∧
        ∃ b, s.inStream[s.inPos]? = some b ∧ t.a.val = b.val))

/-- 44_control R142: the phase becomes HALTED only by a running step that decoded End, which changes nothing else. -/
def Obligations.OnlyEndHalts : Prop :=
  ∀ s t : State, step s = .next t → s.phase ≠ .halted → t.phase = .halted →
    s.phase = .running ∧ decode (s.read s.c) s.c = .halt ∧ t = { s with phase := .halted }

/-- 60_exceptions R170, R173, R177, R178: the phase becomes FAULTED only by an illegal character of the text, with its
residue, or by In at end of input; nothing but the record and the phase changes. That the whole state is kept, the
offending item of LOAD, registers and memory included, is the model's form (log entry 7): the spec offers none of it for
inspection after a fault (D17). -/
def Obligations.OnlyTheTwoFaultsAreTaken : Prop :=
  ∀ s t : State, step s = .next t → s.phase ≠ .faulted → t.phase = .faulted →
    ∃ f, t = { s with phase := .faulted, fault := some f } ∧
      ((s.phase = .running ∧ decode (s.read s.c) s.c = .inp ∧ s.inStream[s.inPos]? = none ∧ s.inEnded = true ∧
          f = .inputExhausted) ∨
       (s.phase = .loading ∧ ∃ (ch : Int) (rest : List LoadItem), s.load = .char ch :: rest ∧
          f = .loadInvalidOpcode (residue (Word.ofNat ch.toNat) (Word.ofNat s.lpos)) ∧
          legal (residue (Word.ofNat ch.toNat) (Word.ofNat s.lpos)) = false))

/-- 10_state R16, 43_execution_cycle R125: the transitions of PHASE a step can make. -/
def Obligations.ThePhaseMovesAsListed : Prop :=
  ∀ s t : State, step s = .next t →
    (s.phase = .loading → t.phase = .loading ∨ t.phase = .running ∨ t.phase = .faulted) ∧
    (s.phase = .running → t.phase = .running ∨ t.phase = .halted ∨ t.phase = .faulted) ∧
    (s.phase = .halted → t = s) ∧ (s.phase = .faulted → t = s)

/-- 43_execution_cycle R130, 60_exceptions R179: no cycle runs in HALTED, and in FAULTED the step answers the recorded
fault. That they answer so is the model's form of "no step is enabled" (log entries 7 and 9). -/
def Obligations.StoppedPhasesStayStopped : Prop :=
  (∀ s : State, s.phase = .halted → step s = .next s) ∧
  ∀ (s : State) (f : Fault), s.phase = .faulted → s.fault = some f → step s = .fault f

/-- 60_exceptions R174, R175: a step answers a fault only in FAULTED and as recorded, a refusal only in LOADING and as
marked; in phase RUNNING it always answers a next state. That the step that faults, refuses or holds answers a next
state, and that a fault or a refusal is answered only by later steps, is the model's form of the outcomes of 00_scope R7
(log entries 7, 8, 10); TheFourOutcomesOfAStep states those outcomes. -/
def Obligations.AStepStopsOnlyAsRecorded : Prop :=
  (∀ (s : State) (f : Fault), step s = .fault f → s.phase = .faulted ∧ s.fault = some f) ∧
  (∀ (s : State) (r : Refusal), step s = .refused r →
    s.phase = .loading ∧ ∃ reason, s.refused = some reason ∧ r = .refusedInput reason) ∧
  ∀ s : State, s.phase = .running → ∃ t, step s = .next t

/-- 00_scope R7, 43_execution_cycle R131, R136: a running step leaves the state as it was exactly when it is a hold, and
a loading one exactly when LOAD has no item for it, which is no hold; that both answer the same state is the model's form
(log entries 8 and 11). -/
def Obligations.AHoldIsExactlyAStepThatChangesNothing : Prop :=
  ∀ s : State,
    (s.phase = .running → (s.held = true ↔ step s = .next s)) ∧
    (s.phase = .loading → (s.awaitsLoad = true ↔ step s = .next s) ∧ s.held = false)

/-- 10_state R17, R18, R24, 42_decode_encrypt R117: no running step depends on CYCLES, LPOS, LOADED_LEN, FAULT, REFUSED
or LOAD: two running states that agree on everything else step to states that agree on it. -/
def Obligations.RunningStepsIgnoreTheBookkeeping : Prop :=
  ∀ s s' : State, s.phase = .running → s'.phase = .running → SameMachine s s' →
    ∃ t t', step s = .next t ∧ step s' = .next t' ∧ SameMachine t t' ∧ t'.phase = t.phase ∧
      t'.cycles + s.cycles = t.cycles + s'.cycles

/-- 70_reset_and_hazards R198: C and D stay equal through every completed cycle that is neither Jmp nor SetD. -/
def Obligations.EqualPointersStayEqual : Prop :=
  ∀ (i : Instr) (s t : State), s.d = s.c → i ≠ .jmp → i ≠ .setD → exec i s = .next t → t.d = t.c

/-- 42_decode_encrypt R116 a, 70_reset_and_hazards R197: after a completed cycle of an instruction that neither jumps nor
stores to its own cell, the next fetch of its address decodes the substitute of what the cell held. The reduction modulo
59049 rests on the spec's own decision D4 (log entry 4, 70_reset_and_hazards R205). For Jmp see AJmpCellSurvivesItsJump,
for Rot and Crz with D = C the statements of those instructions. -/
def Obligations.ARevisitDecodesTheSubstitute : Prop :=
  ∀ s t : State, s.phase = .running → step s = .next t → t.cycles = s.cycles + 1 → s.fetch ≠ .jmp →
    ((s.fetch = .rot ∨ s.fetch = .crz) → s.d ≠ s.c) →
    (residue (t.read s.c) s.c).val = (ciphered (s.read s.c) + s.c.val) % 59049 % 94

/-- 42_decode_encrypt R116 d, 70_reset_and_hazards R199: a Jmp whose target is another cell leaves its own cell, which
decodes as Jmp again at its address. -/
def Obligations.AJmpCellSurvivesItsJump : Prop :=
  ∀ s t : State, s.phase = .running → decode (s.read s.c) s.c = .jmp → s.read s.d ≠ s.c → step s = .next t →
    t.read s.c = s.read s.c ∧ decode (t.read s.c) s.c = .jmp

/-! ### Reset and the invariant -/

/-- 70_reset_and_hazards R190, R191, R192: from any state, a reset gives every engine register its reset value and every
cell MEM_INIT, and leaves the streams alone. LOADED_LEN, undefined there in the spec, is 0 by the model's choice (log
entry 13) and is not claimed here; that LOAD keeps its unread rest is log entry 16 and is not claimed either. -/
def Obligations.ResetRestoresTheEngineAndKeepsTheStreams : Prop :=
  ∀ s t : State, s.applyMove .reset = t →
    t.a = 0 ∧ t.c = 0 ∧ t.d = 0 ∧ t.phase = .loading ∧ t.lpos = 0 ∧
    t.cycles = 0 ∧ t.fault = none ∧ t.refused = none ∧ (∀ x, t.read x = Config.memInit x) ∧
    t.out = s.out ∧ t.inStream = s.inStream ∧ t.inPos = s.inPos ∧ t.inEnded = s.inEnded

/-- The invariant holds right after reset. -/
def Obligations.ResetMeetsTheInvariant : Prop := State.reset.Inv

/-- Every step keeps the invariant: the canonical form of memory, the fault record exactly in FAULTED, the loader's reasons
in REFUSED only in LOADING, the legal image while loading, every cell written once the machine runs. -/
def Obligations.EveryStepKeepsTheInvariant : Prop := ∀ s t : State, s.Inv → step s = .next t → t.Inv

/-- Every move of the environment keeps the invariant (46_io R164, 70_reset_and_hazards R191). -/
def Obligations.EveryEnvironmentMoveKeepsTheInvariant : Prop :=
  ∀ (m : EnvMove) (s : State), s.Inv → (s.applyMove m).Inv

/-- Every run keeps the invariant, however steps, environment moves and uses of parse interleave. -/
def Obligations.EveryRunKeepsTheInvariant : Prop :=
  ∀ (events : List Event) (s t : State), s.Inv → runEvents events s = .next t → t.Inv

/-! ### The loader -/

/-- 41_loader R91: a whitespace character is dropped: not counted, not checked, not stored. -/
def Obligations.WhitespaceIsDropped : Prop :=
  ∀ (s : State) (ch : Int) (rest : List LoadItem), s.phase = .loading → s.refused = none → s.load = .char ch :: rest →
    Config.isWs ch = true → step s = .next { s with load := rest }

/-- 41_loader R92, R93, R94: a legal character is stored raw at the address LPOS and counted, and nothing else
changes. -/
def Obligations.ALegalCharacterIsStoredRaw : Prop :=
  ∀ (s : State) (ch : Int) (rest : List LoadItem), s.phase = .loading → s.refused = none → s.load = .char ch :: rest →
    Config.isWs ch = false → s.lpos < 59049 → LegalAt ch s.lpos →
    ∃ t, step s = .next t ∧ t.lpos = s.lpos + 1 ∧ t.load = rest ∧
      ((t.read (Word.ofNat s.lpos)).val : Int) = ch ∧
      (∀ x : Word, x.val ≠ s.lpos → t.read x = s.read x) ∧
      t.a = s.a ∧ t.c = s.c ∧ t.d = s.d ∧ t.cycles = s.cycles ∧ t.phase = .loading ∧ t.loadedLen = s.loadedLen ∧
      t.fault = s.fault ∧ t.refused = none ∧ SameStreams s t

/-- 41_loader R93, R95: an illegal character takes the fault LoadInvalidOpcode, code 1, with its residue. That the fault
is a next state in phase FAULTED is the model's form (log entry 7); the reduction modulo 59049 rests on the spec's own
decision D4 (log entry 4). -/
def Obligations.AnIllegalCharacterTakesTheLoadFault : Prop :=
  ∀ (s : State) (ch : Int) (rest : List LoadItem), s.phase = .loading → s.refused = none → s.load = .char ch :: rest →
    Config.isWs ch = false → s.lpos < 59049 → 0 ≤ ch → ch ≤ 59048 →
    (residue (Word.ofNat ch.toNat) (Word.ofNat s.lpos)).val ∉ [4, 5, 23, 39, 40, 62, 68, 81] →
    ∃ t f, step s = .next t ∧ t.phase = .faulted ∧ t.fault = some f ∧ f.code = 1 ∧
      f.info = some ((ch.toNat + s.lpos) % 59049 % 94)

/-- 41_loader R98, 60_exceptions R177: the refusals and their order: whitespace never refuses, then the length, then the
range; an empty text is refused at its end; the mark is set and the phase stays LOADING. That a refusal is a next state
with only the mark set and the item left on LOAD is the model's form (log entry 10). -/
def Obligations.TheLoaderRefusesInOrder : Prop :=
  ∀ (s : State) (rest : List LoadItem), s.phase = .loading → s.refused = none →
    (∀ ch : Int, s.load = .char ch :: rest → Config.isWs ch = false → s.lpos = 59049 →
      step s = .next { s with refused := some .imageTooLong }) ∧
    (∀ ch : Int, s.load = .char ch :: rest → Config.isWs ch = false → s.lpos < 59049 → (ch < 0 ∨ 59048 < ch) →
      step s = .next { s with refused := some .charOutOfRange }) ∧
    (s.load = .endOfText :: rest → s.lpos = 0 → step s = .next { s with refused := some .emptyImage })

/-- 41_loader R96, R97, R99, R101: at the end of a text of length 1 or more, every address from L on is the combine of
its two predecessors, the predecessor of address 1 for L = 1 being what cell 59048 held; the cells below L stay;
LOADED_LEN is L, the phase is RUNNING, and registers, counter, LPOS, records, IN and OUT are untouched. The clause for L = 1 is the
spec's own decision D6 (log entry 19). -/
def Obligations.TheEndOfTextFillsTheTail : Prop :=
  ∀ (s : State) (rest : List LoadItem), s.phase = .loading → s.refused = none → s.load = .endOfText :: rest →
    1 ≤ s.lpos → s.lpos ≤ 59049 → Memory.wf s.mem = true →
    ∃ t, step s = .next t ∧ t.phase = .running ∧ t.loadedLen = s.lpos ∧ t.load = rest ∧
      (∀ k : Word, k.val < s.lpos → t.read k = s.read k) ∧
      (∀ k : Word, s.lpos ≤ k.val → 2 ≤ k.val →
        t.read k = Alu.combine (t.read (Word.ofNat (k.val - 2))) (t.read (Word.ofNat (k.val - 1)))) ∧
      (s.lpos = 1 → t.read 1 = Alu.combine (s.read 59048) (s.read 0)) ∧
      t.a = s.a ∧ t.c = s.c ∧ t.d = s.d ∧ t.cycles = s.cycles ∧ t.lpos = s.lpos ∧ t.fault = s.fault ∧ t.refused = none ∧
      SameStreams s t

/-- 41_loader R101: the first cycle after a load decodes a legal opcode. -/
def Obligations.TheFirstInstructionAfterALoadIsLegal : Prop :=
  ∀ s t : State, s.Inv → s.phase = .loading → step s = .next t → t.phase = .running →
    legal (residue (t.read t.c) t.c) = true

/-- 41_loader R90 to R102, the loader end to end: from a fresh loader, any text whose significant characters, 1 to 59049
of them, are legal at their positions is loaded in one step per item: the k-th significant character stands in cell k
wherever whitespace stood, the tail follows, and the engine is RUNNING with its registers, records, IN and OUT untouched. Cell 1 of a text of
length 1 is left to TheEndOfTextFillsTheTail. -/
def Obligations.TheLoaderLoadsEveryLegalText : Prop :=
  ∀ (codes : List Int) (rest : List LoadItem) (s : State), FreshLoader s →
    s.load = codes.map LoadItem.char ++ LoadItem.endOfText :: rest →
    1 ≤ (significant codes).length → (significant codes).length ≤ 59049 → AllLegal (significant codes) →
    ∃ t, Host.Core.run core (codes.length + 1) s = .next t ∧ t.phase = .running ∧ t.load = rest ∧
      t.loadedLen = (significant codes).length ∧
      (∀ (k : Word) (ch : Int), (significant codes)[k.val]? = some ch → ((t.read k).val : Int) = ch) ∧
      (∀ k : Word, (significant codes).length ≤ k.val → 2 ≤ k.val →
        t.read k = Alu.combine (t.read (Word.ofNat (k.val - 2))) (t.read (Word.ofNat (k.val - 1)))) ∧
      t.a = s.a ∧ t.c = s.c ∧ t.d = s.d ∧ t.cycles = s.cycles ∧ t.fault = s.fault ∧ t.refused = none ∧ SameStreams s t

/-- 41_loader R95, 60_exceptions R177: the first illegal character decides: whatever follows it, the fault carries its
residue. That the fault is a next state in phase FAULTED is the model's form (log entry 7). -/
def Obligations.TheFirstIllegalCharacterDecides : Prop :=
  ∀ (codes : List Int) (bad : Int) (rest : List LoadItem) (s : State), FreshLoader s →
    s.load = codes.map LoadItem.char ++ LoadItem.char bad :: rest →
    (significant codes).length < 59049 → AllLegal (significant codes) → Config.isWs bad = false → 0 ≤ bad →
    bad ≤ 59048 → ¬LegalAt bad (significant codes).length →
    ∃ t, Host.Core.run core (codes.length + 1) s = .next t ∧ t.phase = .faulted ∧
      t.fault =
        some (.loadInvalidOpcode (residue (Word.ofNat bad.toNat) (Word.ofNat (significant codes).length)))

/-! ### Every instance of the open parameters -/

/-- 00_scope R4: exec and step are those of the instance Config.machine, arm by arm; that this instance wraps the decode
sum is the spec's own decision D4 (log entry 4). -/
def Obligations.TheMachineIsOneInstance : Prop :=
  (∀ (i : Instr) (s : State), exec i s = execWith Config.machine i s) ∧
  (∀ s : State, step s = stepWith Config.machine s) ∧ Config.machine.decodeWrap = true

/-- 30_encoding R51, R52, R53, R56: under either reading of the decode sum, decode of encode is the instruction, at every
address; which cell value the encoder gives is the model's choice (log entry 15). -/
def Obligations.EitherReadingDecodesItsEncoding : Prop :=
  ∀ (wrap : Bool) (i : Instr), i.wellFormed = true → ∀ p : Word, decodeWith wrap (encodeWith wrap i p) p = i

/-- Every step of every instance keeps the invariant of that instance, its legal image read under its own DECODE_WRAP. -/
def Obligations.EveryInstanceKeepsItsInvariant : Prop :=
  ∀ (P : Params) (s t : State), s.InvWith P → stepWith P s = .next t → t.InvWith P

/-- Every run of every instance keeps the invariant of that instance, however steps, environment moves and uses of parse
interleave. -/
def Obligations.EveryRunOfEveryInstanceKeepsItsInvariant : Prop :=
  ∀ (P : Params) (events : List Event) (s t : State), s.InvWith P → runEventsWith P events s = .next t → t.InvWith P

/-- 43_execution_cycle R135, 70_reset_and_hazards R205, 92_eei_decisions D4, D10, D11: a step consults IS_WS only at the
character before the loader, VALID7 only at A mod 128, DECODE_WRAP only where the decode sum reaches 59049: two instances
with the same ENC and MEM_INIT that agree there step alike. -/
def Obligations.AStepConsultsTheParametersOnlyWhereItLooks : Prop :=
  ∀ (P Q : Params) (s : State), P.enc = Q.enc → P.memInit = Q.memInit →
    (s.phase = .running →
      (P.decodeWrap = Q.decodeWrap ∨ (s.readWith P s.c).val + s.c.val < 59049) ∧
      (s.fetchWith P = .out → P.valid7 (code7 s.a) = Q.valid7 (code7 s.a))) →
    (s.phase = .loading → ∀ (ch : Int) (rest : List LoadItem), s.load = .char ch :: rest →
      P.isWs ch = Q.isWs ch ∧ (P.decodeWrap = Q.decodeWrap ∨ ch.toNat + s.lpos < 59049)) →
    stepWith P s = stepWith Q s

/-- 70_reset_and_hazards R193, 41_loader R97: from a state that meets the invariant, the only step that depends on
MEM_INIT is the one that ends a text of one significant character. -/
def Obligations.OnlyAOneCharacterTextReadsMemInit : Prop :=
  ∀ (P : Params) (init : Word → Word) (s : State), s.InvWith P →
    ¬(s.phase = .loading ∧ s.lpos = 1 ∧ ∃ rest, s.load = .endOfText :: rest) →
    stepWith P s = stepWith { P with memInit := init } s

/-- 00_scope R7, 60_exceptions R175, R178, R184: in every instance a step has exactly one of the four outcomes where it
has any: a hold exactly when In waits for a byte; a fault or a refusal exactly when the step records it; a next state
otherwise, which is another state. It has none in HALTED, in FAULTED, once an input is refused, and while LOADING has no
item. That the recorded fault or refusal and the hold are next states of `step` is the model's form (log entries 7, 8,
10, 11). -/
def Obligations.TheFourOutcomesOfAStep : Prop :=
  ∀ (P : Params) (s : State),
    (outcomeWith P s = some .hold ↔
      s.phase = .running ∧ s.fetchWith P = .inp ∧ s.inStream[s.inPos]? = none ∧ s.inEnded = false) ∧
    (outcomeWith P s = some .hold → stepWith P s = .next s) ∧
    (∀ f, outcomeWith P s = some (.fault f) ↔
      s.phase ≠ .faulted ∧ stepWith P s = .next { s with phase := .faulted, fault := some f }) ∧
    (∀ r, outcomeWith P s = some (.refuse r) ↔
      s.phase = .loading ∧ s.refused = none ∧ stepWith P s = .next { s with refused := some r }) ∧
    (∀ t, outcomeWith P s = some (.next t) → stepWith P s = .next t ∧ t ≠ s ∧ t.phase ≠ .faulted) ∧
    (outcomeWith P s = none ↔
      s.phase = .halted ∨ s.phase = .faulted ∨ (s.phase = .loading ∧ (s.refused ≠ none ∨ s.load = [])))
end

