-- ==== Sys2Proof/Laws/Alu.lean ====
section
/-!
SUPPORT. The bounds and lengths of digit lists, and what the named arithmetic of Words is as a natural number.
-/

namespace Sys2Proof.Alu

@[simp] theorem digitsOf_length (n w : Nat) : (digitsOf n w).length = n := by
  induction n generalizing w with
  | zero => rfl
  | succ n ih => simp [digitsOf, ih]

@[simp] theorem digits_length (w : Word) : (digits w).length = 10 := digitsOf_length 10 w.val

theorem undigitsNat_lt (ds : List Trit) : undigitsNat ds < 3 ^ ds.length := by
  induction ds with
  | nil => decide
  | cons d ds ih =>
    have := d.isLt
    simp only [undigitsNat, List.length_cons, pow_succ]
    omega

/-- Ten digits always make a Word: `undigits` wraps nothing (40_ternary_alu R73, "no wrap is needed"). -/
theorem undigits_val {ds : List Trit} (h : ds.length = 10) : (undigits ds).val = undigitsNat ds := by
  have := undigitsNat_lt ds
  rw [h] at this
  exact Nat.mod_eq_of_lt this

theorem rotate_val (w : Word) : (rotate w).val = w.val / 3 + w.val % 3 * 19683 := rfl

theorem inc_val (w : Word) : (inc w).val = (w.val + 1) % 59049 := rfl

theorem add_val (a b : Word) : (add a b).val = (a.val + b.val) % 59049 := rfl

theorem inc_pred (w : Word) : inc (pred w) = w := by
  have := w.isLt
  refine Fin.ext ?_
  simp only [inc, pred, Word.ofNat]
  omega

theorem pred_inc (w : Word) : pred (inc w) = w := by
  have := w.isLt
  refine Fin.ext ?_
  simp only [inc, pred, Word.ofNat]
  omega

end Sys2Proof.Alu
end

