-- ==== Sys2Proof/Laws/State.lean ====
section
/-!
SUPPORT. What each named update of State does to each field, one lemma per field per update, so that no proof unfolds
a record update.
-/

namespace Sys2Proof.Machine

/-! ### write -/

@[simp] theorem State.write_a (s : State) (x v : Word) :
    (s.write x v).a = s.a := rfl
@[simp] theorem State.write_c (s : State) (x v : Word) :
    (s.write x v).c = s.c := rfl
@[simp] theorem State.write_d (s : State) (x v : Word) :
    (s.write x v).d = s.d := rfl
@[simp] theorem State.write_mem (s : State) (x v : Word) :
    (s.write x v).mem = Memory.write s.mem x v := rfl
@[simp] theorem State.write_phase (s : State) (x v : Word) :
    (s.write x v).phase = s.phase := rfl
@[simp] theorem State.write_lpos (s : State) (x v : Word) :
    (s.write x v).lpos = s.lpos := rfl
@[simp] theorem State.write_loadedLen (s : State) (x v : Word) :
    (s.write x v).loadedLen = s.loadedLen := rfl
@[simp] theorem State.write_cycles (s : State) (x v : Word) :
    (s.write x v).cycles = s.cycles := rfl
@[simp] theorem State.write_fault (s : State) (x v : Word) :
    (s.write x v).fault = s.fault := rfl
@[simp] theorem State.write_refused (s : State) (x v : Word) :
    (s.write x v).refused = s.refused := rfl
@[simp] theorem State.write_load (s : State) (x v : Word) :
    (s.write x v).load = s.load := rfl
@[simp] theorem State.write_inStream (s : State) (x v : Word) :
    (s.write x v).inStream = s.inStream := rfl
@[simp] theorem State.write_inPos (s : State) (x v : Word) :
    (s.write x v).inPos = s.inPos := rfl
@[simp] theorem State.write_inEnded (s : State) (x v : Word) :
    (s.write x v).inEnded = s.inEnded := rfl
@[simp] theorem State.write_out (s : State) (x v : Word) :
    (s.write x v).out = s.out := rfl

/-! ### setA -/

@[simp] theorem State.setA_a (s : State) (v : Word) :
    (s.setA v).a = v := rfl
@[simp] theorem State.setA_c (s : State) (v : Word) :
    (s.setA v).c = s.c := rfl
@[simp] theorem State.setA_d (s : State) (v : Word) :
    (s.setA v).d = s.d := rfl
@[simp] theorem State.setA_mem (s : State) (v : Word) :
    (s.setA v).mem = s.mem := rfl
@[simp] theorem State.setA_phase (s : State) (v : Word) :
    (s.setA v).phase = s.phase := rfl
@[simp] theorem State.setA_lpos (s : State) (v : Word) :
    (s.setA v).lpos = s.lpos := rfl
@[simp] theorem State.setA_loadedLen (s : State) (v : Word) :
    (s.setA v).loadedLen = s.loadedLen := rfl
@[simp] theorem State.setA_cycles (s : State) (v : Word) :
    (s.setA v).cycles = s.cycles := rfl
@[simp] theorem State.setA_fault (s : State) (v : Word) :
    (s.setA v).fault = s.fault := rfl
@[simp] theorem State.setA_refused (s : State) (v : Word) :
    (s.setA v).refused = s.refused := rfl
@[simp] theorem State.setA_load (s : State) (v : Word) :
    (s.setA v).load = s.load := rfl
@[simp] theorem State.setA_inStream (s : State) (v : Word) :
    (s.setA v).inStream = s.inStream := rfl
@[simp] theorem State.setA_inPos (s : State) (v : Word) :
    (s.setA v).inPos = s.inPos := rfl
@[simp] theorem State.setA_inEnded (s : State) (v : Word) :
    (s.setA v).inEnded = s.inEnded := rfl
@[simp] theorem State.setA_out (s : State) (v : Word) :
    (s.setA v).out = s.out := rfl

/-! ### setC -/

@[simp] theorem State.setC_a (s : State) (v : Word) :
    (s.setC v).a = s.a := rfl
@[simp] theorem State.setC_c (s : State) (v : Word) :
    (s.setC v).c = v := rfl
@[simp] theorem State.setC_d (s : State) (v : Word) :
    (s.setC v).d = s.d := rfl
@[simp] theorem State.setC_mem (s : State) (v : Word) :
    (s.setC v).mem = s.mem := rfl
@[simp] theorem State.setC_phase (s : State) (v : Word) :
    (s.setC v).phase = s.phase := rfl
@[simp] theorem State.setC_lpos (s : State) (v : Word) :
    (s.setC v).lpos = s.lpos := rfl
@[simp] theorem State.setC_loadedLen (s : State) (v : Word) :
    (s.setC v).loadedLen = s.loadedLen := rfl
@[simp] theorem State.setC_cycles (s : State) (v : Word) :
    (s.setC v).cycles = s.cycles := rfl
@[simp] theorem State.setC_fault (s : State) (v : Word) :
    (s.setC v).fault = s.fault := rfl
@[simp] theorem State.setC_refused (s : State) (v : Word) :
    (s.setC v).refused = s.refused := rfl
@[simp] theorem State.setC_load (s : State) (v : Word) :
    (s.setC v).load = s.load := rfl
@[simp] theorem State.setC_inStream (s : State) (v : Word) :
    (s.setC v).inStream = s.inStream := rfl
@[simp] theorem State.setC_inPos (s : State) (v : Word) :
    (s.setC v).inPos = s.inPos := rfl
@[simp] theorem State.setC_inEnded (s : State) (v : Word) :
    (s.setC v).inEnded = s.inEnded := rfl
@[simp] theorem State.setC_out (s : State) (v : Word) :
    (s.setC v).out = s.out := rfl

/-! ### setD -/

@[simp] theorem State.setD_a (s : State) (v : Word) :
    (s.setD v).a = s.a := rfl
@[simp] theorem State.setD_c (s : State) (v : Word) :
    (s.setD v).c = s.c := rfl
@[simp] theorem State.setD_d (s : State) (v : Word) :
    (s.setD v).d = v := rfl
@[simp] theorem State.setD_mem (s : State) (v : Word) :
    (s.setD v).mem = s.mem := rfl
@[simp] theorem State.setD_phase (s : State) (v : Word) :
    (s.setD v).phase = s.phase := rfl
@[simp] theorem State.setD_lpos (s : State) (v : Word) :
    (s.setD v).lpos = s.lpos := rfl
@[simp] theorem State.setD_loadedLen (s : State) (v : Word) :
    (s.setD v).loadedLen = s.loadedLen := rfl
@[simp] theorem State.setD_cycles (s : State) (v : Word) :
    (s.setD v).cycles = s.cycles := rfl
@[simp] theorem State.setD_fault (s : State) (v : Word) :
    (s.setD v).fault = s.fault := rfl
@[simp] theorem State.setD_refused (s : State) (v : Word) :
    (s.setD v).refused = s.refused := rfl
@[simp] theorem State.setD_load (s : State) (v : Word) :
    (s.setD v).load = s.load := rfl
@[simp] theorem State.setD_inStream (s : State) (v : Word) :
    (s.setD v).inStream = s.inStream := rfl
@[simp] theorem State.setD_inPos (s : State) (v : Word) :
    (s.setD v).inPos = s.inPos := rfl
@[simp] theorem State.setD_inEnded (s : State) (v : Word) :
    (s.setD v).inEnded = s.inEnded := rfl
@[simp] theorem State.setD_out (s : State) (v : Word) :
    (s.setD v).out = s.out := rfl

/-! ### writeBack -/

@[simp] theorem State.writeBack_a (s : State) :
    s.writeBack.a = s.a := rfl
@[simp] theorem State.writeBack_c (s : State) :
    s.writeBack.c = s.c := rfl
@[simp] theorem State.writeBack_d (s : State) :
    s.writeBack.d = s.d := rfl
@[simp] theorem State.writeBack_mem (s : State) :
    s.writeBack.mem = Memory.write s.mem s.c (encrypt (Memory.read s.mem s.c)) := rfl
@[simp] theorem State.writeBack_phase (s : State) :
    s.writeBack.phase = s.phase := rfl
@[simp] theorem State.writeBack_lpos (s : State) :
    s.writeBack.lpos = s.lpos := rfl
@[simp] theorem State.writeBack_loadedLen (s : State) :
    s.writeBack.loadedLen = s.loadedLen := rfl
@[simp] theorem State.writeBack_cycles (s : State) :
    s.writeBack.cycles = s.cycles := rfl
@[simp] theorem State.writeBack_fault (s : State) :
    s.writeBack.fault = s.fault := rfl
@[simp] theorem State.writeBack_refused (s : State) :
    s.writeBack.refused = s.refused := rfl
@[simp] theorem State.writeBack_load (s : State) :
    s.writeBack.load = s.load := rfl
@[simp] theorem State.writeBack_inStream (s : State) :
    s.writeBack.inStream = s.inStream := rfl
@[simp] theorem State.writeBack_inPos (s : State) :
    s.writeBack.inPos = s.inPos := rfl
@[simp] theorem State.writeBack_inEnded (s : State) :
    s.writeBack.inEnded = s.inEnded := rfl
@[simp] theorem State.writeBack_out (s : State) :
    s.writeBack.out = s.out := rfl

/-! ### writeBackWith -/

@[simp] theorem State.writeBackWith_a (P : Params) (s : State) :
    (s.writeBackWith P).a = s.a := rfl
@[simp] theorem State.writeBackWith_c (P : Params) (s : State) :
    (s.writeBackWith P).c = s.c := rfl
@[simp] theorem State.writeBackWith_d (P : Params) (s : State) :
    (s.writeBackWith P).d = s.d := rfl
@[simp] theorem State.writeBackWith_mem (P : Params) (s : State) :
    (s.writeBackWith P).mem = Memory.write s.mem s.c (encryptWith P.enc (s.readWith P s.c)) := rfl
@[simp] theorem State.writeBackWith_phase (P : Params) (s : State) :
    (s.writeBackWith P).phase = s.phase := rfl
@[simp] theorem State.writeBackWith_lpos (P : Params) (s : State) :
    (s.writeBackWith P).lpos = s.lpos := rfl
@[simp] theorem State.writeBackWith_loadedLen (P : Params) (s : State) :
    (s.writeBackWith P).loadedLen = s.loadedLen := rfl
@[simp] theorem State.writeBackWith_cycles (P : Params) (s : State) :
    (s.writeBackWith P).cycles = s.cycles := rfl
@[simp] theorem State.writeBackWith_fault (P : Params) (s : State) :
    (s.writeBackWith P).fault = s.fault := rfl
@[simp] theorem State.writeBackWith_refused (P : Params) (s : State) :
    (s.writeBackWith P).refused = s.refused := rfl
@[simp] theorem State.writeBackWith_load (P : Params) (s : State) :
    (s.writeBackWith P).load = s.load := rfl
@[simp] theorem State.writeBackWith_inStream (P : Params) (s : State) :
    (s.writeBackWith P).inStream = s.inStream := rfl
@[simp] theorem State.writeBackWith_inPos (P : Params) (s : State) :
    (s.writeBackWith P).inPos = s.inPos := rfl
@[simp] theorem State.writeBackWith_inEnded (P : Params) (s : State) :
    (s.writeBackWith P).inEnded = s.inEnded := rfl
@[simp] theorem State.writeBackWith_out (P : Params) (s : State) :
    (s.writeBackWith P).out = s.out := rfl

/-! ### advance -/

@[simp] theorem State.advance_a (s : State) :
    s.advance.a = s.a := rfl
@[simp] theorem State.advance_c (s : State) :
    s.advance.c = Alu.inc s.c := rfl
@[simp] theorem State.advance_d (s : State) :
    s.advance.d = Alu.inc s.d := rfl
@[simp] theorem State.advance_mem (s : State) :
    s.advance.mem = s.mem := rfl
@[simp] theorem State.advance_phase (s : State) :
    s.advance.phase = s.phase := rfl
@[simp] theorem State.advance_lpos (s : State) :
    s.advance.lpos = s.lpos := rfl
@[simp] theorem State.advance_loadedLen (s : State) :
    s.advance.loadedLen = s.loadedLen := rfl
@[simp] theorem State.advance_cycles (s : State) :
    s.advance.cycles = s.cycles := rfl
@[simp] theorem State.advance_fault (s : State) :
    s.advance.fault = s.fault := rfl
@[simp] theorem State.advance_refused (s : State) :
    s.advance.refused = s.refused := rfl
@[simp] theorem State.advance_load (s : State) :
    s.advance.load = s.load := rfl
@[simp] theorem State.advance_inStream (s : State) :
    s.advance.inStream = s.inStream := rfl
@[simp] theorem State.advance_inPos (s : State) :
    s.advance.inPos = s.inPos := rfl
@[simp] theorem State.advance_inEnded (s : State) :
    s.advance.inEnded = s.inEnded := rfl
@[simp] theorem State.advance_out (s : State) :
    s.advance.out = s.out := rfl

/-! ### count -/

@[simp] theorem State.count_a (s : State) :
    s.count.a = s.a := rfl
@[simp] theorem State.count_c (s : State) :
    s.count.c = s.c := rfl
@[simp] theorem State.count_d (s : State) :
    s.count.d = s.d := rfl
@[simp] theorem State.count_mem (s : State) :
    s.count.mem = s.mem := rfl
@[simp] theorem State.count_phase (s : State) :
    s.count.phase = s.phase := rfl
@[simp] theorem State.count_lpos (s : State) :
    s.count.lpos = s.lpos := rfl
@[simp] theorem State.count_loadedLen (s : State) :
    s.count.loadedLen = s.loadedLen := rfl
@[simp] theorem State.count_cycles (s : State) :
    s.count.cycles = s.cycles + 1 := rfl
@[simp] theorem State.count_fault (s : State) :
    s.count.fault = s.fault := rfl
@[simp] theorem State.count_refused (s : State) :
    s.count.refused = s.refused := rfl
@[simp] theorem State.count_load (s : State) :
    s.count.load = s.load := rfl
@[simp] theorem State.count_inStream (s : State) :
    s.count.inStream = s.inStream := rfl
@[simp] theorem State.count_inPos (s : State) :
    s.count.inPos = s.inPos := rfl
@[simp] theorem State.count_inEnded (s : State) :
    s.count.inEnded = s.inEnded := rfl
@[simp] theorem State.count_out (s : State) :
    s.count.out = s.out := rfl

/-! ### completeCycle -/

@[simp] theorem State.completeCycle_a (s : State) :
    s.completeCycle.a = s.a := rfl
@[simp] theorem State.completeCycle_c (s : State) :
    s.completeCycle.c = Alu.inc s.c := rfl
@[simp] theorem State.completeCycle_d (s : State) :
    s.completeCycle.d = Alu.inc s.d := rfl
@[simp] theorem State.completeCycle_mem (s : State) :
    s.completeCycle.mem = Memory.write s.mem s.c (encrypt (Memory.read s.mem s.c)) := rfl
@[simp] theorem State.completeCycle_phase (s : State) :
    s.completeCycle.phase = s.phase := rfl
@[simp] theorem State.completeCycle_lpos (s : State) :
    s.completeCycle.lpos = s.lpos := rfl
@[simp] theorem State.completeCycle_loadedLen (s : State) :
    s.completeCycle.loadedLen = s.loadedLen := rfl
@[simp] theorem State.completeCycle_cycles (s : State) :
    s.completeCycle.cycles = s.cycles + 1 := rfl
@[simp] theorem State.completeCycle_fault (s : State) :
    s.completeCycle.fault = s.fault := rfl
@[simp] theorem State.completeCycle_refused (s : State) :
    s.completeCycle.refused = s.refused := rfl
@[simp] theorem State.completeCycle_load (s : State) :
    s.completeCycle.load = s.load := rfl
@[simp] theorem State.completeCycle_inStream (s : State) :
    s.completeCycle.inStream = s.inStream := rfl
@[simp] theorem State.completeCycle_inPos (s : State) :
    s.completeCycle.inPos = s.inPos := rfl
@[simp] theorem State.completeCycle_inEnded (s : State) :
    s.completeCycle.inEnded = s.inEnded := rfl
@[simp] theorem State.completeCycle_out (s : State) :
    s.completeCycle.out = s.out := rfl

/-! ### completeCycleWith -/

@[simp] theorem State.completeCycleWith_a (P : Params) (s : State) :
    (s.completeCycleWith P).a = s.a := rfl
@[simp] theorem State.completeCycleWith_c (P : Params) (s : State) :
    (s.completeCycleWith P).c = Alu.inc s.c := rfl
@[simp] theorem State.completeCycleWith_d (P : Params) (s : State) :
    (s.completeCycleWith P).d = Alu.inc s.d := rfl
@[simp] theorem State.completeCycleWith_mem (P : Params) (s : State) :
    (s.completeCycleWith P).mem = Memory.write s.mem s.c (encryptWith P.enc (s.readWith P s.c)) := rfl
@[simp] theorem State.completeCycleWith_phase (P : Params) (s : State) :
    (s.completeCycleWith P).phase = s.phase := rfl
@[simp] theorem State.completeCycleWith_lpos (P : Params) (s : State) :
    (s.completeCycleWith P).lpos = s.lpos := rfl
@[simp] theorem State.completeCycleWith_loadedLen (P : Params) (s : State) :
    (s.completeCycleWith P).loadedLen = s.loadedLen := rfl
@[simp] theorem State.completeCycleWith_cycles (P : Params) (s : State) :
    (s.completeCycleWith P).cycles = s.cycles + 1 := rfl
@[simp] theorem State.completeCycleWith_fault (P : Params) (s : State) :
    (s.completeCycleWith P).fault = s.fault := rfl
@[simp] theorem State.completeCycleWith_refused (P : Params) (s : State) :
    (s.completeCycleWith P).refused = s.refused := rfl
@[simp] theorem State.completeCycleWith_load (P : Params) (s : State) :
    (s.completeCycleWith P).load = s.load := rfl
@[simp] theorem State.completeCycleWith_inStream (P : Params) (s : State) :
    (s.completeCycleWith P).inStream = s.inStream := rfl
@[simp] theorem State.completeCycleWith_inPos (P : Params) (s : State) :
    (s.completeCycleWith P).inPos = s.inPos := rfl
@[simp] theorem State.completeCycleWith_inEnded (P : Params) (s : State) :
    (s.completeCycleWith P).inEnded = s.inEnded := rfl
@[simp] theorem State.completeCycleWith_out (P : Params) (s : State) :
    (s.completeCycleWith P).out = s.out := rfl

/-! ### enterRunning -/

@[simp] theorem State.enterRunning_a (s : State) :
    s.enterRunning.a = s.a := rfl
@[simp] theorem State.enterRunning_c (s : State) :
    s.enterRunning.c = s.c := rfl
@[simp] theorem State.enterRunning_d (s : State) :
    s.enterRunning.d = s.d := rfl
@[simp] theorem State.enterRunning_mem (s : State) :
    s.enterRunning.mem = s.mem := rfl
@[simp] theorem State.enterRunning_phase (s : State) :
    s.enterRunning.phase = .running := rfl
@[simp] theorem State.enterRunning_lpos (s : State) :
    s.enterRunning.lpos = s.lpos := rfl
@[simp] theorem State.enterRunning_loadedLen (s : State) :
    s.enterRunning.loadedLen = s.loadedLen := rfl
@[simp] theorem State.enterRunning_cycles (s : State) :
    s.enterRunning.cycles = s.cycles := rfl
@[simp] theorem State.enterRunning_fault (s : State) :
    s.enterRunning.fault = s.fault := rfl
@[simp] theorem State.enterRunning_refused (s : State) :
    s.enterRunning.refused = s.refused := rfl
@[simp] theorem State.enterRunning_load (s : State) :
    s.enterRunning.load = s.load := rfl
@[simp] theorem State.enterRunning_inStream (s : State) :
    s.enterRunning.inStream = s.inStream := rfl
@[simp] theorem State.enterRunning_inPos (s : State) :
    s.enterRunning.inPos = s.inPos := rfl
@[simp] theorem State.enterRunning_inEnded (s : State) :
    s.enterRunning.inEnded = s.inEnded := rfl
@[simp] theorem State.enterRunning_out (s : State) :
    s.enterRunning.out = s.out := rfl

/-! ### enterHalted -/

@[simp] theorem State.enterHalted_a (s : State) :
    s.enterHalted.a = s.a := rfl
@[simp] theorem State.enterHalted_c (s : State) :
    s.enterHalted.c = s.c := rfl
@[simp] theorem State.enterHalted_d (s : State) :
    s.enterHalted.d = s.d := rfl
@[simp] theorem State.enterHalted_mem (s : State) :
    s.enterHalted.mem = s.mem := rfl
@[simp] theorem State.enterHalted_phase (s : State) :
    s.enterHalted.phase = .halted := rfl
@[simp] theorem State.enterHalted_lpos (s : State) :
    s.enterHalted.lpos = s.lpos := rfl
@[simp] theorem State.enterHalted_loadedLen (s : State) :
    s.enterHalted.loadedLen = s.loadedLen := rfl
@[simp] theorem State.enterHalted_cycles (s : State) :
    s.enterHalted.cycles = s.cycles := rfl
@[simp] theorem State.enterHalted_fault (s : State) :
    s.enterHalted.fault = s.fault := rfl
@[simp] theorem State.enterHalted_refused (s : State) :
    s.enterHalted.refused = s.refused := rfl
@[simp] theorem State.enterHalted_load (s : State) :
    s.enterHalted.load = s.load := rfl
@[simp] theorem State.enterHalted_inStream (s : State) :
    s.enterHalted.inStream = s.inStream := rfl
@[simp] theorem State.enterHalted_inPos (s : State) :
    s.enterHalted.inPos = s.inPos := rfl
@[simp] theorem State.enterHalted_inEnded (s : State) :
    s.enterHalted.inEnded = s.inEnded := rfl
@[simp] theorem State.enterHalted_out (s : State) :
    s.enterHalted.out = s.out := rfl

/-! ### raiseFault -/

@[simp] theorem State.raiseFault_a (s : State) (f : Fault) :
    (s.raiseFault f).a = s.a := rfl
@[simp] theorem State.raiseFault_c (s : State) (f : Fault) :
    (s.raiseFault f).c = s.c := rfl
@[simp] theorem State.raiseFault_d (s : State) (f : Fault) :
    (s.raiseFault f).d = s.d := rfl
@[simp] theorem State.raiseFault_mem (s : State) (f : Fault) :
    (s.raiseFault f).mem = s.mem := rfl
@[simp] theorem State.raiseFault_phase (s : State) (f : Fault) :
    (s.raiseFault f).phase = .faulted := rfl
@[simp] theorem State.raiseFault_lpos (s : State) (f : Fault) :
    (s.raiseFault f).lpos = s.lpos := rfl
@[simp] theorem State.raiseFault_loadedLen (s : State) (f : Fault) :
    (s.raiseFault f).loadedLen = s.loadedLen := rfl
@[simp] theorem State.raiseFault_cycles (s : State) (f : Fault) :
    (s.raiseFault f).cycles = s.cycles := rfl
@[simp] theorem State.raiseFault_fault (s : State) (f : Fault) :
    (s.raiseFault f).fault = some f := rfl
@[simp] theorem State.raiseFault_refused (s : State) (f : Fault) :
    (s.raiseFault f).refused = s.refused := rfl
@[simp] theorem State.raiseFault_load (s : State) (f : Fault) :
    (s.raiseFault f).load = s.load := rfl
@[simp] theorem State.raiseFault_inStream (s : State) (f : Fault) :
    (s.raiseFault f).inStream = s.inStream := rfl
@[simp] theorem State.raiseFault_inPos (s : State) (f : Fault) :
    (s.raiseFault f).inPos = s.inPos := rfl
@[simp] theorem State.raiseFault_inEnded (s : State) (f : Fault) :
    (s.raiseFault f).inEnded = s.inEnded := rfl
@[simp] theorem State.raiseFault_out (s : State) (f : Fault) :
    (s.raiseFault f).out = s.out := rfl

/-! ### refuse -/

@[simp] theorem State.refuse_a (s : State) (r : RefuseReason) :
    (s.refuse r).a = s.a := rfl
@[simp] theorem State.refuse_c (s : State) (r : RefuseReason) :
    (s.refuse r).c = s.c := rfl
@[simp] theorem State.refuse_d (s : State) (r : RefuseReason) :
    (s.refuse r).d = s.d := rfl
@[simp] theorem State.refuse_mem (s : State) (r : RefuseReason) :
    (s.refuse r).mem = s.mem := rfl
@[simp] theorem State.refuse_phase (s : State) (r : RefuseReason) :
    (s.refuse r).phase = s.phase := rfl
@[simp] theorem State.refuse_lpos (s : State) (r : RefuseReason) :
    (s.refuse r).lpos = s.lpos := rfl
@[simp] theorem State.refuse_loadedLen (s : State) (r : RefuseReason) :
    (s.refuse r).loadedLen = s.loadedLen := rfl
@[simp] theorem State.refuse_cycles (s : State) (r : RefuseReason) :
    (s.refuse r).cycles = s.cycles := rfl
@[simp] theorem State.refuse_fault (s : State) (r : RefuseReason) :
    (s.refuse r).fault = s.fault := rfl
@[simp] theorem State.refuse_refused (s : State) (r : RefuseReason) :
    (s.refuse r).refused = some r := rfl
@[simp] theorem State.refuse_load (s : State) (r : RefuseReason) :
    (s.refuse r).load = s.load := rfl
@[simp] theorem State.refuse_inStream (s : State) (r : RefuseReason) :
    (s.refuse r).inStream = s.inStream := rfl
@[simp] theorem State.refuse_inPos (s : State) (r : RefuseReason) :
    (s.refuse r).inPos = s.inPos := rfl
@[simp] theorem State.refuse_inEnded (s : State) (r : RefuseReason) :
    (s.refuse r).inEnded = s.inEnded := rfl
@[simp] theorem State.refuse_out (s : State) (r : RefuseReason) :
    (s.refuse r).out = s.out := rfl

/-! ### dropByte -/

@[simp] theorem State.dropByte_a (s : State) :
    s.dropByte.a = s.a := rfl
@[simp] theorem State.dropByte_c (s : State) :
    s.dropByte.c = s.c := rfl
@[simp] theorem State.dropByte_d (s : State) :
    s.dropByte.d = s.d := rfl
@[simp] theorem State.dropByte_mem (s : State) :
    s.dropByte.mem = s.mem := rfl
@[simp] theorem State.dropByte_phase (s : State) :
    s.dropByte.phase = s.phase := rfl
@[simp] theorem State.dropByte_lpos (s : State) :
    s.dropByte.lpos = s.lpos := rfl
@[simp] theorem State.dropByte_loadedLen (s : State) :
    s.dropByte.loadedLen = s.loadedLen := rfl
@[simp] theorem State.dropByte_cycles (s : State) :
    s.dropByte.cycles = s.cycles := rfl
@[simp] theorem State.dropByte_fault (s : State) :
    s.dropByte.fault = s.fault := rfl
@[simp] theorem State.dropByte_refused (s : State) :
    s.dropByte.refused = s.refused := rfl
@[simp] theorem State.dropByte_load (s : State) :
    s.dropByte.load = s.load := rfl
@[simp] theorem State.dropByte_inStream (s : State) :
    s.dropByte.inStream = s.inStream := rfl
@[simp] theorem State.dropByte_inPos (s : State) :
    s.dropByte.inPos = s.inPos + 1 := rfl
@[simp] theorem State.dropByte_inEnded (s : State) :
    s.dropByte.inEnded = s.inEnded := rfl
@[simp] theorem State.dropByte_out (s : State) :
    s.dropByte.out = s.out := rfl

/-! ### emit -/

@[simp] theorem State.emit_a (s : State) (x : OutSym) :
    (s.emit x).a = s.a := rfl
@[simp] theorem State.emit_c (s : State) (x : OutSym) :
    (s.emit x).c = s.c := rfl
@[simp] theorem State.emit_d (s : State) (x : OutSym) :
    (s.emit x).d = s.d := rfl
@[simp] theorem State.emit_mem (s : State) (x : OutSym) :
    (s.emit x).mem = s.mem := rfl
@[simp] theorem State.emit_phase (s : State) (x : OutSym) :
    (s.emit x).phase = s.phase := rfl
@[simp] theorem State.emit_lpos (s : State) (x : OutSym) :
    (s.emit x).lpos = s.lpos := rfl
@[simp] theorem State.emit_loadedLen (s : State) (x : OutSym) :
    (s.emit x).loadedLen = s.loadedLen := rfl
@[simp] theorem State.emit_cycles (s : State) (x : OutSym) :
    (s.emit x).cycles = s.cycles := rfl
@[simp] theorem State.emit_fault (s : State) (x : OutSym) :
    (s.emit x).fault = s.fault := rfl
@[simp] theorem State.emit_refused (s : State) (x : OutSym) :
    (s.emit x).refused = s.refused := rfl
@[simp] theorem State.emit_load (s : State) (x : OutSym) :
    (s.emit x).load = s.load := rfl
@[simp] theorem State.emit_inStream (s : State) (x : OutSym) :
    (s.emit x).inStream = s.inStream := rfl
@[simp] theorem State.emit_inPos (s : State) (x : OutSym) :
    (s.emit x).inPos = s.inPos := rfl
@[simp] theorem State.emit_inEnded (s : State) (x : OutSym) :
    (s.emit x).inEnded = s.inEnded := rfl
@[simp] theorem State.emit_out (s : State) (x : OutSym) :
    (s.emit x).out = s.out ++ [x] := rfl

/-! ### storeOperand -/

@[simp] theorem State.storeOperand_a (s : State) (v : Word) :
    (s.storeOperand v).a = s.a := rfl
@[simp] theorem State.storeOperand_c (s : State) (v : Word) :
    (s.storeOperand v).c = s.c := rfl
@[simp] theorem State.storeOperand_d (s : State) (v : Word) :
    (s.storeOperand v).d = s.d := rfl
@[simp] theorem State.storeOperand_mem (s : State) (v : Word) :
    (s.storeOperand v).mem = Memory.write s.mem s.d v := rfl
@[simp] theorem State.storeOperand_phase (s : State) (v : Word) :
    (s.storeOperand v).phase = s.phase := rfl
@[simp] theorem State.storeOperand_lpos (s : State) (v : Word) :
    (s.storeOperand v).lpos = s.lpos := rfl
@[simp] theorem State.storeOperand_loadedLen (s : State) (v : Word) :
    (s.storeOperand v).loadedLen = s.loadedLen := rfl
@[simp] theorem State.storeOperand_cycles (s : State) (v : Word) :
    (s.storeOperand v).cycles = s.cycles := rfl
@[simp] theorem State.storeOperand_fault (s : State) (v : Word) :
    (s.storeOperand v).fault = s.fault := rfl
@[simp] theorem State.storeOperand_refused (s : State) (v : Word) :
    (s.storeOperand v).refused = s.refused := rfl
@[simp] theorem State.storeOperand_load (s : State) (v : Word) :
    (s.storeOperand v).load = s.load := rfl
@[simp] theorem State.storeOperand_inStream (s : State) (v : Word) :
    (s.storeOperand v).inStream = s.inStream := rfl
@[simp] theorem State.storeOperand_inPos (s : State) (v : Word) :
    (s.storeOperand v).inPos = s.inPos := rfl
@[simp] theorem State.storeOperand_inEnded (s : State) (v : Word) :
    (s.storeOperand v).inEnded = s.inEnded := rfl
@[simp] theorem State.storeOperand_out (s : State) (v : Word) :
    (s.storeOperand v).out = s.out := rfl

/-! ### storeBoth -/

@[simp] theorem State.storeBoth_a (s : State) (v : Word) :
    (s.storeBoth v).a = v := rfl
@[simp] theorem State.storeBoth_c (s : State) (v : Word) :
    (s.storeBoth v).c = s.c := rfl
@[simp] theorem State.storeBoth_d (s : State) (v : Word) :
    (s.storeBoth v).d = s.d := rfl
@[simp] theorem State.storeBoth_mem (s : State) (v : Word) :
    (s.storeBoth v).mem = Memory.write s.mem s.d v := rfl
@[simp] theorem State.storeBoth_phase (s : State) (v : Word) :
    (s.storeBoth v).phase = s.phase := rfl
@[simp] theorem State.storeBoth_lpos (s : State) (v : Word) :
    (s.storeBoth v).lpos = s.lpos := rfl
@[simp] theorem State.storeBoth_loadedLen (s : State) (v : Word) :
    (s.storeBoth v).loadedLen = s.loadedLen := rfl
@[simp] theorem State.storeBoth_cycles (s : State) (v : Word) :
    (s.storeBoth v).cycles = s.cycles := rfl
@[simp] theorem State.storeBoth_fault (s : State) (v : Word) :
    (s.storeBoth v).fault = s.fault := rfl
@[simp] theorem State.storeBoth_refused (s : State) (v : Word) :
    (s.storeBoth v).refused = s.refused := rfl
@[simp] theorem State.storeBoth_load (s : State) (v : Word) :
    (s.storeBoth v).load = s.load := rfl
@[simp] theorem State.storeBoth_inStream (s : State) (v : Word) :
    (s.storeBoth v).inStream = s.inStream := rfl
@[simp] theorem State.storeBoth_inPos (s : State) (v : Word) :
    (s.storeBoth v).inPos = s.inPos := rfl
@[simp] theorem State.storeBoth_inEnded (s : State) (v : Word) :
    (s.storeBoth v).inEnded = s.inEnded := rfl
@[simp] theorem State.storeBoth_out (s : State) (v : Word) :
    (s.storeBoth v).out = s.out := rfl

/-! ### consume -/

@[simp] theorem State.consume_a (s : State) (rest : List LoadItem) :
    (s.consume rest).a = s.a := rfl
@[simp] theorem State.consume_c (s : State) (rest : List LoadItem) :
    (s.consume rest).c = s.c := rfl
@[simp] theorem State.consume_d (s : State) (rest : List LoadItem) :
    (s.consume rest).d = s.d := rfl
@[simp] theorem State.consume_mem (s : State) (rest : List LoadItem) :
    (s.consume rest).mem = s.mem := rfl
@[simp] theorem State.consume_phase (s : State) (rest : List LoadItem) :
    (s.consume rest).phase = s.phase := rfl
@[simp] theorem State.consume_lpos (s : State) (rest : List LoadItem) :
    (s.consume rest).lpos = s.lpos := rfl
@[simp] theorem State.consume_loadedLen (s : State) (rest : List LoadItem) :
    (s.consume rest).loadedLen = s.loadedLen := rfl
@[simp] theorem State.consume_cycles (s : State) (rest : List LoadItem) :
    (s.consume rest).cycles = s.cycles := rfl
@[simp] theorem State.consume_fault (s : State) (rest : List LoadItem) :
    (s.consume rest).fault = s.fault := rfl
@[simp] theorem State.consume_refused (s : State) (rest : List LoadItem) :
    (s.consume rest).refused = s.refused := rfl
@[simp] theorem State.consume_load (s : State) (rest : List LoadItem) :
    (s.consume rest).load = rest := rfl
@[simp] theorem State.consume_inStream (s : State) (rest : List LoadItem) :
    (s.consume rest).inStream = s.inStream := rfl
@[simp] theorem State.consume_inPos (s : State) (rest : List LoadItem) :
    (s.consume rest).inPos = s.inPos := rfl
@[simp] theorem State.consume_inEnded (s : State) (rest : List LoadItem) :
    (s.consume rest).inEnded = s.inEnded := rfl
@[simp] theorem State.consume_out (s : State) (rest : List LoadItem) :
    (s.consume rest).out = s.out := rfl

/-! ### storeChar -/

@[simp] theorem State.storeChar_a (s : State) (v : Word) (rest : List LoadItem) :
    (s.storeChar v rest).a = s.a := rfl
@[simp] theorem State.storeChar_c (s : State) (v : Word) (rest : List LoadItem) :
    (s.storeChar v rest).c = s.c := rfl
@[simp] theorem State.storeChar_d (s : State) (v : Word) (rest : List LoadItem) :
    (s.storeChar v rest).d = s.d := rfl
@[simp] theorem State.storeChar_mem (s : State) (v : Word) (rest : List LoadItem) :
    (s.storeChar v rest).mem = Memory.write s.mem (Word.ofNat s.lpos) v := rfl
@[simp] theorem State.storeChar_phase (s : State) (v : Word) (rest : List LoadItem) :
    (s.storeChar v rest).phase = s.phase := rfl
@[simp] theorem State.storeChar_lpos (s : State) (v : Word) (rest : List LoadItem) :
    (s.storeChar v rest).lpos = s.lpos + 1 := rfl
@[simp] theorem State.storeChar_loadedLen (s : State) (v : Word) (rest : List LoadItem) :
    (s.storeChar v rest).loadedLen = s.loadedLen := rfl
@[simp] theorem State.storeChar_cycles (s : State) (v : Word) (rest : List LoadItem) :
    (s.storeChar v rest).cycles = s.cycles := rfl
@[simp] theorem State.storeChar_fault (s : State) (v : Word) (rest : List LoadItem) :
    (s.storeChar v rest).fault = s.fault := rfl
@[simp] theorem State.storeChar_refused (s : State) (v : Word) (rest : List LoadItem) :
    (s.storeChar v rest).refused = s.refused := rfl
@[simp] theorem State.storeChar_load (s : State) (v : Word) (rest : List LoadItem) :
    (s.storeChar v rest).load = rest := rfl
@[simp] theorem State.storeChar_inStream (s : State) (v : Word) (rest : List LoadItem) :
    (s.storeChar v rest).inStream = s.inStream := rfl
@[simp] theorem State.storeChar_inPos (s : State) (v : Word) (rest : List LoadItem) :
    (s.storeChar v rest).inPos = s.inPos := rfl
@[simp] theorem State.storeChar_inEnded (s : State) (v : Word) (rest : List LoadItem) :
    (s.storeChar v rest).inEnded = s.inEnded := rfl
@[simp] theorem State.storeChar_out (s : State) (v : Word) (rest : List LoadItem) :
    (s.storeChar v rest).out = s.out := rfl

/-! ### finishLoadWith -/

@[simp] theorem State.finishLoadWith_a (P : Params) (s : State) (rest : List LoadItem) :
    (s.finishLoadWith P rest).a = s.a := rfl
@[simp] theorem State.finishLoadWith_c (P : Params) (s : State) (rest : List LoadItem) :
    (s.finishLoadWith P rest).c = s.c := rfl
@[simp] theorem State.finishLoadWith_d (P : Params) (s : State) (rest : List LoadItem) :
    (s.finishLoadWith P rest).d = s.d := rfl
@[simp] theorem State.finishLoadWith_mem (P : Params) (s : State) (rest : List LoadItem) :
    (s.finishLoadWith P rest).mem = Memory.fillTailWith P.memInit s.mem s.lpos := rfl
@[simp] theorem State.finishLoadWith_phase (P : Params) (s : State) (rest : List LoadItem) :
    (s.finishLoadWith P rest).phase = .running := rfl
@[simp] theorem State.finishLoadWith_lpos (P : Params) (s : State) (rest : List LoadItem) :
    (s.finishLoadWith P rest).lpos = s.lpos := rfl
@[simp] theorem State.finishLoadWith_loadedLen (P : Params) (s : State) (rest : List LoadItem) :
    (s.finishLoadWith P rest).loadedLen = s.lpos := rfl
@[simp] theorem State.finishLoadWith_cycles (P : Params) (s : State) (rest : List LoadItem) :
    (s.finishLoadWith P rest).cycles = s.cycles := rfl
@[simp] theorem State.finishLoadWith_fault (P : Params) (s : State) (rest : List LoadItem) :
    (s.finishLoadWith P rest).fault = s.fault := rfl
@[simp] theorem State.finishLoadWith_refused (P : Params) (s : State) (rest : List LoadItem) :
    (s.finishLoadWith P rest).refused = s.refused := rfl
@[simp] theorem State.finishLoadWith_load (P : Params) (s : State) (rest : List LoadItem) :
    (s.finishLoadWith P rest).load = rest := rfl
@[simp] theorem State.finishLoadWith_inStream (P : Params) (s : State) (rest : List LoadItem) :
    (s.finishLoadWith P rest).inStream = s.inStream := rfl
@[simp] theorem State.finishLoadWith_inPos (P : Params) (s : State) (rest : List LoadItem) :
    (s.finishLoadWith P rest).inPos = s.inPos := rfl
@[simp] theorem State.finishLoadWith_inEnded (P : Params) (s : State) (rest : List LoadItem) :
    (s.finishLoadWith P rest).inEnded = s.inEnded := rfl
@[simp] theorem State.finishLoadWith_out (P : Params) (s : State) (rest : List LoadItem) :
    (s.finishLoadWith P rest).out = s.out := rfl

/-! ### finishLoad -/

@[simp] theorem State.finishLoad_a (s : State) (rest : List LoadItem) :
    (s.finishLoad rest).a = s.a := rfl
@[simp] theorem State.finishLoad_c (s : State) (rest : List LoadItem) :
    (s.finishLoad rest).c = s.c := rfl
@[simp] theorem State.finishLoad_d (s : State) (rest : List LoadItem) :
    (s.finishLoad rest).d = s.d := rfl
@[simp] theorem State.finishLoad_mem (s : State) (rest : List LoadItem) :
    (s.finishLoad rest).mem = Memory.fillTail s.mem s.lpos := rfl
@[simp] theorem State.finishLoad_phase (s : State) (rest : List LoadItem) :
    (s.finishLoad rest).phase = .running := rfl
@[simp] theorem State.finishLoad_lpos (s : State) (rest : List LoadItem) :
    (s.finishLoad rest).lpos = s.lpos := rfl
@[simp] theorem State.finishLoad_loadedLen (s : State) (rest : List LoadItem) :
    (s.finishLoad rest).loadedLen = s.lpos := rfl
@[simp] theorem State.finishLoad_cycles (s : State) (rest : List LoadItem) :
    (s.finishLoad rest).cycles = s.cycles := rfl
@[simp] theorem State.finishLoad_fault (s : State) (rest : List LoadItem) :
    (s.finishLoad rest).fault = s.fault := rfl
@[simp] theorem State.finishLoad_refused (s : State) (rest : List LoadItem) :
    (s.finishLoad rest).refused = s.refused := rfl
@[simp] theorem State.finishLoad_load (s : State) (rest : List LoadItem) :
    (s.finishLoad rest).load = rest := rfl
@[simp] theorem State.finishLoad_inStream (s : State) (rest : List LoadItem) :
    (s.finishLoad rest).inStream = s.inStream := rfl
@[simp] theorem State.finishLoad_inPos (s : State) (rest : List LoadItem) :
    (s.finishLoad rest).inPos = s.inPos := rfl
@[simp] theorem State.finishLoad_inEnded (s : State) (rest : List LoadItem) :
    (s.finishLoad rest).inEnded = s.inEnded := rfl
@[simp] theorem State.finishLoad_out (s : State) (rest : List LoadItem) :
    (s.finishLoad rest).out = s.out := rfl

/-! ### resetEvent -/

@[simp] theorem State.resetEvent_a (s : State) :
    s.resetEvent.a = 0 := rfl
@[simp] theorem State.resetEvent_c (s : State) :
    s.resetEvent.c = 0 := rfl
@[simp] theorem State.resetEvent_d (s : State) :
    s.resetEvent.d = 0 := rfl
@[simp] theorem State.resetEvent_mem (s : State) :
    s.resetEvent.mem = [] := rfl
@[simp] theorem State.resetEvent_phase (s : State) :
    s.resetEvent.phase = .loading := rfl
@[simp] theorem State.resetEvent_lpos (s : State) :
    s.resetEvent.lpos = 0 := rfl
@[simp] theorem State.resetEvent_loadedLen (s : State) :
    s.resetEvent.loadedLen = 0 := rfl
@[simp] theorem State.resetEvent_cycles (s : State) :
    s.resetEvent.cycles = 0 := rfl
@[simp] theorem State.resetEvent_fault (s : State) :
    s.resetEvent.fault = none := rfl
@[simp] theorem State.resetEvent_refused (s : State) :
    s.resetEvent.refused = none := rfl
@[simp] theorem State.resetEvent_load (s : State) :
    s.resetEvent.load = s.load := rfl
@[simp] theorem State.resetEvent_inStream (s : State) :
    s.resetEvent.inStream = s.inStream := rfl
@[simp] theorem State.resetEvent_inPos (s : State) :
    s.resetEvent.inPos = s.inPos := rfl
@[simp] theorem State.resetEvent_inEnded (s : State) :
    s.resetEvent.inEnded = s.inEnded := rfl
@[simp] theorem State.resetEvent_out (s : State) :
    s.resetEvent.out = s.out := rfl

/-! ### markRefused, parseArgument: the mark and nothing else -/

/-- A mark already set stays, with its reason. -/
theorem State.markRefused_cases (r : RefuseReason) (s : State) :
    (s.refused = none ∧ s.markRefused r = s.refuse r) ∨ (s.refused.isSome = true ∧ s.markRefused r = s) := by
  unfold State.markRefused
  split <;> simp [*]

/-- Everything a use of `parse` can do to a state. -/
theorem State.parseArgument_cases (text : List Char) (s : State) :
    (∃ w, parse text = .ok w ∧ s.parseArgument text = (s, some w)) ∨
    (∃ r, parse text = .error r ∧ s.parseArgument text = (s.markRefused r, none)) := by
  unfold State.parseArgument
  split <;> simp [*]

/-- The only reason `parse` refuses with. -/
theorem parse_error {text : List Char} {r : RefuseReason} (h : parse text = .error r) : r = .malformedTernaryText := by
  unfold parse at h
  split at h <;> cases h
  rfl

/-! ### read through a state -/

theorem State.read_eq (s : State) (x : Word) : s.read x = Memory.read s.mem x := rfl

theorem State.readWith_eq (P : Params) (s : State) (x : Word) : s.readWith P x = Memory.readWith P.memInit s.mem x := rfl

theorem State.operandWith_eq (P : Params) (s : State) : s.operandWith P = Memory.readWith P.memInit s.mem s.d := rfl

theorem State.operand_eq (s : State) : s.operand = Memory.read s.mem s.d := rfl

end Sys2Proof.Machine
end

