-- ==== Sys2Proof/Laws/Exec.lean ====
section
/-!
SUPPORT. Everything a meaning, a loader step or a step can do, said once: proofs cite these lemmas and do not unfold the
definitions again.
-/

namespace Sys2Proof.Machine

/-- The state dispatch leaves for an instruction that goes on to complete its cycle, before the common tail
(43_execution_cycle R126 step 2), in the instance `P`. End never completes a cycle; In does when a byte is there. -/
def DispatchedWith (P : Params) (i : Instr) (s u : State) : Prop :=
  match i with
  | .jmp => u = s.setC (s.operandWith P)
  | .out => u = s.emit (outsymWith P.valid7 (code7 s.a))
  | .inp => ∃ b, s.nextByte = some b ∧ u = s.dropByte.setA (Word.ofByte b)
  | .rot => u = s.storeBoth (Alu.rotate (s.operandWith P))
  | .setD => u = s.setD (s.operandWith P)
  | .crz => u = s.storeBoth (Alu.combine (s.operandWith P) s.a)
  | .nop => u = s
  | .halt => False
  | .nopx _ => u = s

/-- The state dispatch leaves in the machine's instance. -/
abbrev Dispatched (i : Instr) (s u : State) : Prop := DispatchedWith Config.machine i s u

/-! The equations of the machine's instance, in its own names: cite these to unfold a form without `With`. -/

theorem decode_eq (v p : Word) : decode v p = decodeResidue (residue v p) := rfl

theorem State.fetch_eq (s : State) : s.fetch = decode (s.read s.c) s.c := rfl

theorem State.completeCycle_eq (s : State) : s.completeCycle = s.writeBack.advance.count := rfl

theorem execIn_eq (s : State) : execIn s =
    match s.nextByte with
    | some b => .next (s.dropByte.setA (Word.ofByte b)).completeCycle
    | none => if s.inEnded then .next (s.raiseFault .inputExhausted) else .next s := rfl

theorem endText_eq (rest : List LoadItem) (s : State) :
    endText rest s = if s.lpos = 0 then s.refuse .emptyImage else s.finishLoad rest := rfl

theorem loadStep_eq (s : State) : loadStep s =
    match s.refused with
    | some r => .refused (.refusedInput r)
    | none =>
      match s.load with
      | [] => .next s
      | .char ch :: rest => .next (loadChar ch rest s)
      | .endOfText :: rest => .next (endText rest s) := rfl

/-- The machine's dispatch is that of its instance. -/
theorem exec_eq_execWith (i : Instr) (s : State) : exec i s = execWith Config.machine i s := by
  cases i <;> rfl

/-- The machine's step is that of its instance. -/
theorem step_eq_stepWith (s : State) : step s = stepWith Config.machine s := by
  unfold step stepWith
  rw [exec_eq_execWith]
  rfl

/-- The four ways a meaning answers: a completed cycle, the halt, the fault entry of In, the hold of In. -/
theorem execWith_cases {P : Params} {i : Instr} {s t : State} (h : execWith P i s = .next t) :
    (∃ u, DispatchedWith P i s u ∧ t = u.completeCycleWith P) ∨
    (i = .halt ∧ t = s.enterHalted) ∨
    (i = .inp ∧ s.nextByte = none ∧ s.inEnded = true ∧ t = s.raiseFault .inputExhausted) ∨
    (i = .inp ∧ s.nextByte = none ∧ s.inEnded = false ∧ t = s) := by
  cases i with
  | inp =>
    simp only [execWith, execInWith] at h
    split at h
    · rename_i b hb
      cases h
      exact .inl ⟨_, ⟨b, hb, rfl⟩, rfl⟩
    · rename_i hb
      split at h <;> rename_i he <;> cases h
      · exact .inr (.inr (.inl ⟨rfl, hb, he, rfl⟩))
      · exact .inr (.inr (.inr ⟨rfl, hb, by simpa using he, rfl⟩))
  | halt => exact .inr (.inl ⟨rfl, (Host.Outcome.next.inj h).symm⟩)
  | _ => exact .inl ⟨_, rfl, (Host.Outcome.next.inj h).symm⟩

theorem exec_cases {i : Instr} {s t : State} (h : exec i s = .next t) :
    (∃ u, Dispatched i s u ∧ t = u.completeCycle) ∨
    (i = .halt ∧ t = s.enterHalted) ∨
    (i = .inp ∧ s.nextByte = none ∧ s.inEnded = true ∧ t = s.raiseFault .inputExhausted) ∨
    (i = .inp ∧ s.nextByte = none ∧ s.inEnded = false ∧ t = s) :=
  execWith_cases ((exec_eq_execWith i s).symm.trans h)

/-- No meaning faults or refuses, in any instance: every one answers a next state (60_exceptions R174). -/
theorem execWith_answers_next (P : Params) (i : Instr) (s : State) : ∃ t, execWith P i s = .next t := by
  cases i with
  | inp =>
    simp only [execWith, execInWith]
    split
    · exact ⟨_, rfl⟩
    · split <;> exact ⟨_, rfl⟩
  | _ => exact ⟨_, rfl⟩

theorem exec_answers_next (i : Instr) (s : State) : ∃ t, exec i s = .next t :=
  exec_eq_execWith i s ▸ execWith_answers_next Config.machine i s

/-- Dispatch moves only A, C, D, memory, the read position of IN and OUT. -/
theorem dispatched_frame {P : Params} {i : Instr} {s u : State} (h : DispatchedWith P i s u) :
    u.phase = s.phase ∧ u.lpos = s.lpos ∧ u.loadedLen = s.loadedLen ∧ u.cycles = s.cycles ∧ u.fault = s.fault ∧
    u.refused = s.refused ∧ u.load = s.load ∧ u.inStream = s.inStream ∧ u.inEnded = s.inEnded := by
  cases i with
  | inp => obtain ⟨b, -, rfl⟩ := h; simp
  | halt => exact h.elim
  | _ => rw [show u = _ from h]; simp

/-- Dispatch moves C under Jmp only. -/
theorem dispatched_c {P : Params} {i : Instr} {s u : State} (h : DispatchedWith P i s u) :
    u.c = if i = .jmp then s.operandWith P else s.c := by
  cases i with
  | inp => obtain ⟨b, -, h⟩ := h; rw [h]; simp
  | halt => exact h.elim
  | _ => rw [show u = _ from h]; simp

/-- Dispatch moves D under SetD only. -/
theorem dispatched_d {P : Params} {i : Instr} {s u : State} (h : DispatchedWith P i s u) :
    u.d = if i = .setD then s.operandWith P else s.d := by
  cases i with
  | inp => obtain ⟨b, -, h⟩ := h; rw [h]; simp
  | halt => exact h.elim
  | _ => rw [show u = _ from h]; simp

/-- Dispatch leaves A and memory alone, or it is Rot or Crz, which store one Word to both, or In, which writes A. -/
theorem dispatched_a_mem {P : Params} {i : Instr} {s u : State} (h : DispatchedWith P i s u) :
    (u.a = s.a ∧ u.mem = s.mem) ∨
    ((i = .rot ∨ i = .crz) ∧ u.mem = Memory.write s.mem s.d u.a) ∨
    (i = .inp ∧ u.mem = s.mem) := by
  cases i with
  | inp => obtain ⟨b, -, h⟩ := h; rw [h]; simp
  | halt => exact h.elim
  | _ => rw [show u = _ from h]; simp

/-- Dispatch appends to OUT under Out only, and one symbol. -/
theorem dispatched_out {P : Params} {i : Instr} {s u : State} (h : DispatchedWith P i s u) :
    u.out = s.out ∨ (i = .out ∧ u.out = s.out ++ [outsymWith P.valid7 (code7 s.a)]) := by
  cases i with
  | inp => obtain ⟨b, -, h⟩ := h; rw [h]; simp
  | halt => exact h.elim
  | _ => rw [show u = _ from h]; simp

/-- Dispatch takes a byte of IN under In only, and then A is that byte. -/
theorem dispatched_inPos {P : Params} {i : Instr} {s u : State} (h : DispatchedWith P i s u) :
    u.inPos = s.inPos ∨
    (i = .inp ∧ u.inPos = s.inPos + 1 ∧ ∃ b, s.nextByte = some b ∧ u.a = Word.ofByte b) := by
  cases i with
  | inp => obtain ⟨b, hb, h⟩ := h; rw [h]; exact .inr ⟨rfl, rfl, b, hb, rfl⟩
  | halt => exact h.elim
  | _ => rw [show u = _ from h]; simp

/-- Exactly the instructions other than End complete a cycle. -/
theorem not_dispatched_halt {P : Params} {s u : State} : ¬DispatchedWith P .halt s u := fun h => h

/-- What one character of `LOAD` does (41_loader R91, R98, R93 to R95), in the order of the tests. -/
theorem loadCharWith_cases (P : Params) (ch : Int) (rest : List LoadItem) (s : State) :
    (P.isWs ch = true ∧ loadCharWith P ch rest s = s.consume rest) ∨
    (P.isWs ch = false ∧ 59049 ≤ s.lpos ∧ loadCharWith P ch rest s = s.refuse .imageTooLong) ∨
    (P.isWs ch = false ∧ s.lpos < 59049 ∧ (ch < 0 ∨ 59048 < ch) ∧
      loadCharWith P ch rest s = s.refuse .charOutOfRange) ∨
    (P.isWs ch = false ∧ s.lpos < 59049 ∧ 0 ≤ ch ∧ ch ≤ 59048 ∧
      legal (residueWith P.decodeWrap (Word.ofNat ch.toNat) (Word.ofNat s.lpos)) = true ∧
      loadCharWith P ch rest s = s.storeChar (Word.ofNat ch.toNat) rest) ∨
    (P.isWs ch = false ∧ s.lpos < 59049 ∧ 0 ≤ ch ∧ ch ≤ 59048 ∧
      legal (residueWith P.decodeWrap (Word.ofNat ch.toNat) (Word.ofNat s.lpos)) = false ∧
      loadCharWith P ch rest s =
        s.raiseFault (.loadInvalidOpcode (residueWith P.decodeWrap (Word.ofNat ch.toNat) (Word.ofNat s.lpos)))) := by
  by_cases hws : P.isWs ch = true
  · exact .inl ⟨hws, if_pos hws⟩
  rw [Bool.not_eq_true] at hws
  by_cases hlen : 59049 ≤ s.lpos
  · refine .inr (.inl ⟨hws, hlen, ?_⟩)
    rw [loadCharWith, hws, if_neg Bool.false_ne_true, if_pos hlen]
  by_cases hrange : ch < 0 ∨ 59048 < ch
  · refine .inr (.inr (.inl ⟨hws, by omega, hrange, ?_⟩))
    rw [loadCharWith, hws, if_neg Bool.false_ne_true, if_neg hlen, if_pos hrange]
  have heq : loadCharWith P ch rest s = checkAndStoreWith P.decodeWrap (Word.ofNat ch.toNat) rest s := by
    rw [loadCharWith, hws, if_neg Bool.false_ne_true, if_neg hlen, if_neg hrange]
  rw [heq]
  by_cases hleg : legal (residueWith P.decodeWrap (Word.ofNat ch.toNat) (Word.ofNat s.lpos)) = true
  · refine .inr (.inr (.inr (.inl ⟨hws, by omega, by omega, by omega, hleg, ?_⟩)))
    rw [checkAndStoreWith, if_pos hleg]
  · rw [Bool.not_eq_true] at hleg
    refine .inr (.inr (.inr (.inr ⟨hws, by omega, by omega, by omega, hleg, ?_⟩)))
    rw [checkAndStoreWith, hleg, if_neg Bool.false_ne_true]

theorem loadChar_cases (ch : Int) (rest : List LoadItem) (s : State) :
    (Config.isWs ch = true ∧ loadChar ch rest s = s.consume rest) ∨
    (Config.isWs ch = false ∧ 59049 ≤ s.lpos ∧ loadChar ch rest s = s.refuse .imageTooLong) ∨
    (Config.isWs ch = false ∧ s.lpos < 59049 ∧ (ch < 0 ∨ 59048 < ch) ∧
      loadChar ch rest s = s.refuse .charOutOfRange) ∨
    (Config.isWs ch = false ∧ s.lpos < 59049 ∧ 0 ≤ ch ∧ ch ≤ 59048 ∧
      legal (residue (Word.ofNat ch.toNat) (Word.ofNat s.lpos)) = true ∧
      loadChar ch rest s = s.storeChar (Word.ofNat ch.toNat) rest) ∨
    (Config.isWs ch = false ∧ s.lpos < 59049 ∧ 0 ≤ ch ∧ ch ≤ 59048 ∧
      legal (residue (Word.ofNat ch.toNat) (Word.ofNat s.lpos)) = false ∧
      loadChar ch rest s =
        s.raiseFault (.loadInvalidOpcode (residue (Word.ofNat ch.toNat) (Word.ofNat s.lpos)))) :=
  loadCharWith_cases Config.machine ch rest s

/-- The ways a loader step answers a next state (41_loader R100): it waits, takes a character, refuses an empty text,
or completes. -/
theorem loadStepWith_cases {P : Params} {s t : State} (h : loadStepWith P s = .next t) :
    s.refused = none ∧
    ((s.load = [] ∧ t = s) ∨
     (∃ ch rest, s.load = .char ch :: rest ∧ t = loadCharWith P ch rest s) ∨
     (∃ rest, s.load = .endOfText :: rest ∧ s.lpos = 0 ∧ t = s.refuse .emptyImage) ∨
     (∃ rest, s.load = .endOfText :: rest ∧ s.lpos ≠ 0 ∧ t = s.finishLoadWith P rest)) := by
  unfold loadStepWith at h
  split at h
  · cases h
  rename_i hr
  refine ⟨hr, ?_⟩
  split at h <;> rename_i hload <;> injection h with h
  · exact .inl ⟨hload, h.symm⟩
  · exact .inr (.inl ⟨_, _, hload, h.symm⟩)
  · by_cases h0 : s.lpos = 0
    · rw [endTextWith, if_pos h0] at h
      exact .inr (.inr (.inl ⟨_, hload, h0, h.symm⟩))
    · rw [endTextWith, if_neg h0] at h
      exact .inr (.inr (.inr ⟨_, hload, h0, h.symm⟩))

theorem loadStep_cases {s t : State} (h : loadStep s = .next t) :
    s.refused = none ∧
    ((s.load = [] ∧ t = s) ∨
     (∃ ch rest, s.load = .char ch :: rest ∧ t = loadChar ch rest s) ∨
     (∃ rest, s.load = .endOfText :: rest ∧ s.lpos = 0 ∧ t = s.refuse .emptyImage) ∨
     (∃ rest, s.load = .endOfText :: rest ∧ s.lpos ≠ 0 ∧ t = s.finishLoad rest)) :=
  loadStepWith_cases h

/-- What a step that answers a next state did, by phase (43_execution_cycle R125). -/
theorem stepWith_cases {P : Params} {s t : State} (h : stepWith P s = .next t) :
    (s.phase = .loading ∧ loadStepWith P s = .next t) ∨
    (s.phase = .running ∧ execWith P (s.fetchWith P) s = .next t) ∨
    (s.phase = .halted ∧ t = s) ∨
    (s.phase = .faulted ∧ s.fault = none ∧ t = s) := by
  unfold stepWith at h
  split at h <;> rename_i hp
  · exact .inl ⟨hp, h⟩
  · exact .inr (.inl ⟨hp, h⟩)
  · cases h
    exact .inr (.inr (.inl ⟨hp, rfl⟩))
  · unfold faultedStep at h
    split at h <;> rename_i hf <;> cases h
    exact .inr (.inr (.inr ⟨hp, hf, rfl⟩))

theorem step_cases {s t : State} (h : step s = .next t) :
    (s.phase = .loading ∧ loadStep s = .next t) ∨
    (s.phase = .running ∧ exec s.fetch s = .next t) ∨
    (s.phase = .halted ∧ t = s) ∨
    (s.phase = .faulted ∧ s.fault = none ∧ t = s) := by
  rw [exec_eq_execWith]
  exact stepWith_cases ((step_eq_stepWith s).symm.trans h)

/-- A loader step touches no register, counter or stream but LOAD (41_loader R90). -/
theorem loadStepWith_frame {P : Params} {s t : State} (h : loadStepWith P s = .next t) :
    t.a = s.a ∧ t.c = s.c ∧ t.d = s.d ∧ t.cycles = s.cycles ∧ t.inStream = s.inStream ∧ t.inPos = s.inPos ∧
    t.inEnded = s.inEnded ∧ t.out = s.out := by
  obtain ⟨-, ⟨-, rfl⟩ | ⟨ch, rest, -, rfl⟩ | ⟨rest, -, -, rfl⟩ | ⟨rest, -, -, rfl⟩⟩ := loadStepWith_cases h
  · simp
  · rcases loadCharWith_cases P ch rest s with ⟨-, e⟩ | ⟨-, -, e⟩ | ⟨-, -, -, e⟩ | ⟨-, -, -, -, -, e⟩ | ⟨-, -, -, -, -, e⟩ <;>
      rw [e] <;> simp
  · simp
  · simp

theorem loadStep_frame {s t : State} (h : loadStep s = .next t) :
    t.a = s.a ∧ t.c = s.c ∧ t.d = s.d ∧ t.cycles = s.cycles ∧ t.inStream = s.inStream ∧ t.inPos = s.inPos ∧
    t.inEnded = s.inEnded ∧ t.out = s.out :=
  loadStepWith_frame h

theorem step_of_running {s : State} (h : s.phase = .running) : step s = exec s.fetch s := by
  simp only [step, h]

theorem step_of_loading {s : State} (h : s.phase = .loading) : step s = loadStep s := by
  simp only [step, h]

end Sys2Proof.Machine
end

