-- ==== Sys2Proof/Laws/Memory.lean ====
section
/-!
SUPPORT. What reading, writing and filling memory do: read after write, the canonical form kept by every operation,
and what the tail fill leaves in each cell.
-/

namespace Sys2Proof.Machine

/-! ### Reading and writing one cell -/

theorem Memory.lookup_write_same (m : Memory) (a v : Word) :
    Memory.lookup (Memory.write m a v) a = some v := by
  induction m with
  | nil => simp [Memory.write, Memory.lookup]
  | cons cell rest ih =>
    obtain ⟨k, w⟩ := cell
    simp only [Memory.write]
    split
    · simp [Memory.lookup]
    · split
      · simp [Memory.lookup]
      · rename_i h1 h2
        simp [Memory.lookup, h1, h2, ih]

theorem Memory.lookup_write_other (m : Memory) (a v b : Word) (h : b ≠ a) :
    Memory.lookup (Memory.write m a v) b = Memory.lookup m b := by
  have hne : b.val ≠ a.val := fun e => h (Fin.ext e)
  induction m with
  | nil => simp [Memory.write, Memory.lookup, hne]
  | cons cell rest ih =>
    obtain ⟨k, w⟩ := cell
    simp only [Memory.write]
    split
    · rename_i h1
      simp only [Memory.lookup, if_neg hne]
      by_cases hb : b.val < a.val
      · rw [if_pos hb, if_neg (by omega), if_pos (by omega)]
      · rw [if_neg hb]
    · split
      · rename_i h1 h2
        simp [Memory.lookup, hne, ← h2]
      · simp only [Memory.lookup, ih]

theorem Memory.lookup_write (m : Memory) (a v b : Word) :
    Memory.lookup (Memory.write m a v) b = if b = a then some v else Memory.lookup m b := by
  split
  · subst b
    exact Memory.lookup_write_same m a v
  · exact Memory.lookup_write_other m a v b ‹_›

theorem Memory.readWith_of_lookup {init : Word → Word} {m : Memory} {a v : Word} (h : Memory.lookup m a = some v) :
    Memory.readWith init m a = v := by
  simp [Memory.readWith, h]

/-- A cell that has been written reads alike under every `MEM_INIT` (70_reset_and_hazards R193). -/
theorem Memory.readWith_of_written (init init' : Word → Word) {m : Memory} {a : Word}
    (h : (Memory.lookup m a).isSome = true) : Memory.readWith init m a = Memory.readWith init' m a := by
  obtain ⟨v, hv⟩ := Option.isSome_iff_exists.mp h
  rw [Memory.readWith_of_lookup hv, Memory.readWith_of_lookup hv]

theorem Memory.readWith_write_same (init : Word → Word) (m : Memory) (a v : Word) :
    Memory.readWith init (Memory.write m a v) a = v :=
  Memory.readWith_of_lookup (Memory.lookup_write_same m a v)

theorem Memory.readWith_write_other (init : Word → Word) (m : Memory) (a v b : Word) (h : b ≠ a) :
    Memory.readWith init (Memory.write m a v) b = Memory.readWith init m b := by
  simp [Memory.readWith, Memory.lookup_write_other m a v b h]

theorem Memory.read_of_lookup {m : Memory} {a v : Word} (h : Memory.lookup m a = some v) :
    Memory.read m a = v :=
  Memory.readWith_of_lookup h

theorem Memory.read_write_same (m : Memory) (a v : Word) :
    Memory.read (Memory.write m a v) a = v :=
  Memory.readWith_write_same _ m a v

theorem Memory.read_write_other (m : Memory) (a v b : Word) (h : b ≠ a) :
    Memory.read (Memory.write m a v) b = Memory.read m b :=
  Memory.readWith_write_other _ m a v b h

theorem Memory.read_write (m : Memory) (a v b : Word) :
    Memory.read (Memory.write m a v) b = if b = a then v else Memory.read m b := by
  split
  · subst b
    exact Memory.read_write_same m a v
  · exact Memory.read_write_other m a v b ‹_›

/-! ### The canonical form -/

/-- Every address listed is `n` or above. -/
def Memory.AllFrom (n : Nat) (m : Memory) : Prop := ∀ cell ∈ m, n ≤ cell.1.val

theorem Memory.wf_cons (k v : Word) (m : Memory) :
    Memory.wf ((k, v) :: m) = true ↔ Memory.AllFrom (k.val + 1) m ∧ Memory.wf m = true := by
  induction m generalizing k v with
  | nil => simp [Memory.wf, Memory.AllFrom]
  | cons cell rest ih =>
    obtain ⟨k', v'⟩ := cell
    have hstep : Memory.wf ((k, v) :: (k', v') :: rest) = true
        ↔ k.val < k'.val ∧ Memory.wf ((k', v') :: rest) = true := by
      simp [Memory.wf]
    rw [hstep, ih k' v']
    constructor
    · rintro ⟨hk, hall, hwf⟩
      refine ⟨?_, hall, hwf⟩
      intro c hc
      rcases List.mem_cons.mp hc with rfl | hc
      · exact hk
      · exact le_trans (Nat.succ_le_succ (Nat.le_of_lt hk)) (hall c hc)
    · rintro ⟨hall, hall', hwf⟩
      exact ⟨hall (k', v') List.mem_cons_self, hall', hwf⟩

theorem Memory.allFrom_write {n : Nat} {m : Memory} {a v : Word} (hm : Memory.AllFrom n m) (ha : n ≤ a.val) :
    Memory.AllFrom n (Memory.write m a v) := by
  induction m with
  | nil =>
    intro c hc
    simp only [Memory.write, List.mem_singleton] at hc
    subst c
    exact ha
  | cons cell rest ih =>
    obtain ⟨k, w⟩ := cell
    have hrest : Memory.AllFrom n rest := fun c hc => hm c (List.mem_cons_of_mem _ hc)
    have hk : n ≤ k.val := hm (k, w) List.mem_cons_self
    simp only [Memory.write]
    split
    · intro c hc
      rcases List.mem_cons.mp hc with rfl | hc
      · exact ha
      · exact hm c hc
    · split
      · intro c hc
        rcases List.mem_cons.mp hc with rfl | hc
        · exact ha
        · exact hrest c hc
      · intro c hc
        rcases List.mem_cons.mp hc with rfl | hc
        · exact hk
        · exact ih hrest c hc

theorem Memory.wf_write (m : Memory) (a v : Word) (hm : Memory.wf m = true) :
    Memory.wf (Memory.write m a v) = true := by
  induction m with
  | nil => rfl
  | cons cell rest ih =>
    obtain ⟨k, w⟩ := cell
    obtain ⟨hall, hrest⟩ := (Memory.wf_cons k w rest).mp hm
    simp only [Memory.write]
    split
    · rename_i h1
      refine (Memory.wf_cons _ _ _).mpr ⟨?_, hm⟩
      intro c hc
      rcases List.mem_cons.mp hc with rfl | hc
      · exact h1
      · have := hall c hc
        omega
    · split
      · rename_i h1 h2
        exact (Memory.wf_cons _ _ _).mpr ⟨by rwa [h2], hrest⟩
      · exact (Memory.wf_cons _ _ _).mpr ⟨Memory.allFrom_write hall (by omega), ih hrest⟩

theorem Memory.lookup_none_of_allFrom {n : Nat} {m : Memory} (hm : Memory.AllFrom n m) {a : Word}
    (ha : a.val < n) : Memory.lookup m a = none := by
  cases m with
  | nil => rfl
  | cons cell rest =>
    obtain ⟨k, w⟩ := cell
    have hk : n ≤ k.val := hm (k, w) List.mem_cons_self
    simp only [Memory.lookup]
    rw [if_neg (by omega), if_pos (by omega)]

/-! ### The tail fill -/

theorem Word.val_ofNat_of_lt {n : Nat} (h : n < 59049) : (Word.ofNat n).val = n := Nat.mod_eq_of_lt h

theorem Memory.allFrom_tailCells (n : Nat) (x y : Word) (j : Nat) (h : j + n ≤ 59049) :
    Memory.AllFrom j (Memory.tailCells x y j n) := by
  induction n generalizing x y j with
  | zero => simp [Memory.tailCells, Memory.AllFrom]
  | succ n ih =>
    intro c hc
    rcases List.mem_cons.mp hc with rfl | hc
    · exact le_of_eq (Word.val_ofNat_of_lt (by omega)).symm
    · exact le_trans (Nat.le_succ j) (ih _ _ (j + 1) (by omega) c hc)

theorem Memory.wf_tailCells (n : Nat) (x y : Word) (j : Nat) (h : j + n ≤ 59049) :
    Memory.wf (Memory.tailCells x y j n) = true := by
  induction n generalizing x y j with
  | zero => rfl
  | succ n ih =>
    refine (Memory.wf_cons _ _ _).mpr ⟨?_, ih _ _ _ (by omega)⟩
    rw [Word.val_ofNat_of_lt (by omega)]
    exact Memory.allFrom_tailCells n _ _ _ (by omega)

theorem Memory.lookup_tailCells (n : Nat) (x y : Word) (j : Nat) (h : j + n ≤ 59049) (a : Word)
    (h1 : j ≤ a.val) (h2 : a.val < j + n) : (Memory.lookup (Memory.tailCells x y j n) a).isSome = true := by
  induction n generalizing x y j with
  | zero => omega
  | succ n ih =>
    simp only [Memory.tailCells, Memory.lookup, Word.val_ofNat_of_lt (show j < 59049 by omega)]
    by_cases ha : a.val = j
    · simp [ha]
    · rw [if_neg ha, if_neg (by omega)]
      exact ih _ _ _ (by omega) (by omega) (by omega)

/-- A canonical list below `len` followed by a canonical list from `len` on is canonical, and is looked up by parts. -/
theorem Memory.wf_append {m t : Memory} {len : Nat} (hm : Memory.wf m = true) (hlt : ∀ c ∈ m, c.1.val < len)
    (ht : Memory.wf t = true) (hge : Memory.AllFrom len t) : Memory.wf (m ++ t) = true := by
  induction m with
  | nil => exact ht
  | cons cell rest ih =>
    obtain ⟨k, w⟩ := cell
    obtain ⟨hall, hrest⟩ := (Memory.wf_cons k w rest).mp hm
    refine (Memory.wf_cons k w _).mpr ⟨?_, ih hrest fun c hc => hlt c (List.mem_cons_of_mem _ hc)⟩
    intro c hc
    rcases List.mem_append.mp hc with hc | hc
    · exact hall c hc
    · exact le_trans (hlt (k, w) List.mem_cons_self) (hge c hc)

theorem Memory.lookup_append_low {m t : Memory} {len : Nat} (hge : Memory.AllFrom len t) {a : Word}
    (ha : a.val < len) : Memory.lookup (m ++ t) a = Memory.lookup m a := by
  induction m with
  | nil => exact Memory.lookup_none_of_allFrom hge ha
  | cons cell rest ih =>
    obtain ⟨k, w⟩ := cell
    simp only [List.cons_append, Memory.lookup, ih]

theorem Memory.lookup_append_high {m t : Memory} {len : Nat} (hlt : ∀ c ∈ m, c.1.val < len) {a : Word}
    (ha : len ≤ a.val) : Memory.lookup (m ++ t) a = Memory.lookup t a := by
  induction m with
  | nil => rfl
  | cons cell rest ih =>
    obtain ⟨k, w⟩ := cell
    have hk : k.val < len := hlt (k, w) List.mem_cons_self
    simp only [List.cons_append, Memory.lookup]
    rw [if_neg (by omega), if_neg (by omega)]
    exact ih fun c hc => hlt c (List.mem_cons_of_mem _ hc)

theorem Memory.wf_filter {m : Memory} (p : Word × Word → Bool) (hm : Memory.wf m = true) :
    Memory.wf (m.filter p) = true := by
  induction m with
  | nil => rfl
  | cons cell rest ih =>
    obtain ⟨k, w⟩ := cell
    obtain ⟨hall, hrest⟩ := (Memory.wf_cons k w rest).mp hm
    by_cases hp : p (k, w) = true
    · rw [List.filter_cons_of_pos hp]
      exact (Memory.wf_cons k w _).mpr ⟨fun c hc => hall c (List.mem_of_mem_filter hc), ih hrest⟩
    · rw [List.filter_cons_of_neg hp]
      exact ih hrest

theorem Memory.lookup_filter_lt {m : Memory} {len : Nat} (hm : Memory.wf m = true) {a : Word} (ha : a.val < len) :
    Memory.lookup (m.filter fun cell => decide (cell.1.val < len)) a = Memory.lookup m a := by
  induction m with
  | nil => rfl
  | cons cell rest ih =>
    obtain ⟨k, w⟩ := cell
    obtain ⟨hall, hrest⟩ := (Memory.wf_cons k w rest).mp hm
    by_cases hk : k.val < len
    · rw [List.filter_cons_of_pos (by simpa using hk)]
      simp only [Memory.lookup, ih hrest]
    · rw [List.filter_cons_of_neg (by simpa using hk), ih hrest,
        Memory.lookup_none_of_allFrom hall (by omega)]
      simp only [Memory.lookup]
      rw [if_neg (by omega), if_pos (by omega)]

theorem Memory.filter_lt (m : Memory) (len : Nat) :
    ∀ c ∈ m.filter (fun cell => decide (cell.1.val < len)), c.1.val < len := by
  intro c hc
  simpa using (List.mem_filter.mp hc).2

theorem Memory.wf_fillTailWith (init : Word → Word) (m : Memory) (len : Nat) (hm : Memory.wf m = true)
    (hlen : len ≤ 59049) : Memory.wf (Memory.fillTailWith init m len) = true :=
  Memory.wf_append (Memory.wf_filter _ hm) (Memory.filter_lt m len)
    (Memory.wf_tailCells _ _ _ _ (by omega)) (Memory.allFrom_tailCells _ _ _ _ (by omega))

/-- The tail fill keeps the cells below the loaded length. -/
theorem Memory.lookup_fillTailWith_low (init : Word → Word) (m : Memory) (len : Nat) (hm : Memory.wf m = true)
    (hlen : len ≤ 59049) {a : Word} (ha : a.val < len) :
    Memory.lookup (Memory.fillTailWith init m len) a = Memory.lookup m a := by
  unfold Memory.fillTailWith
  rw [Memory.lookup_append_low (Memory.allFrom_tailCells _ _ _ _ (by omega)) ha]
  exact Memory.lookup_filter_lt hm ha

/-- From the loaded length on, the tail fill's cells are those of `tailCells`. -/
theorem Memory.lookup_fillTailWith_high (init : Word → Word) (m : Memory) (len : Nat) {a : Word} (ha : len ≤ a.val) :
    Memory.lookup (Memory.fillTailWith init m len) a =
      Memory.lookup (Memory.tailCells (Memory.readWith init m (Alu.pred (Alu.pred (Word.ofNat len))))
        (Memory.readWith init m (Alu.pred (Word.ofNat len))) len (59049 - len)) a := by
  unfold Memory.fillTailWith
  exact Memory.lookup_append_high (Memory.filter_lt m len) ha

/-- The tail fill writes every cell from the loaded length on. -/
theorem Memory.fillTailWith_written (init : Word → Word) (m : Memory) (len : Nat) (hlen : len ≤ 59049) {a : Word}
    (ha : len ≤ a.val) : (Memory.lookup (Memory.fillTailWith init m len) a).isSome = true := by
  rw [Memory.lookup_fillTailWith_high init m len ha]
  exact Memory.lookup_tailCells _ _ _ _ (by omega) a ha (by have := a.isLt; omega)

theorem Memory.wf_fillTail (m : Memory) (len : Nat) (hm : Memory.wf m = true) (hlen : len ≤ 59049) :
    Memory.wf (Memory.fillTail m len) = true :=
  Memory.wf_fillTailWith _ m len hm hlen

theorem Memory.lookup_fillTail_low (m : Memory) (len : Nat) (hm : Memory.wf m = true) (hlen : len ≤ 59049)
    {a : Word} (ha : a.val < len) : Memory.lookup (Memory.fillTail m len) a = Memory.lookup m a :=
  Memory.lookup_fillTailWith_low _ m len hm hlen ha

theorem Memory.lookup_fillTail_high (m : Memory) (len : Nat) {a : Word} (ha : len ≤ a.val) :
    Memory.lookup (Memory.fillTail m len) a =
      Memory.lookup (Memory.tailCells (Memory.read m (Alu.pred (Alu.pred (Word.ofNat len))))
        (Memory.read m (Alu.pred (Word.ofNat len))) len (59049 - len)) a :=
  Memory.lookup_fillTailWith_high _ m len ha

theorem Memory.fillTail_written (m : Memory) (len : Nat) (hlen : len ≤ 59049) {a : Word} (ha : len ≤ a.val) :
    (Memory.lookup (Memory.fillTail m len) a).isSome = true :=
  Memory.fillTailWith_written _ m len hlen ha

end Sys2Proof.Machine
end

