-- ==== Sys2Proof/Laws/PerInstr.lean ====
section
/-!
SUPPORT. Statements made per instruction. ResidueMap: the decoder's map of residues to operations is the inverse of the
encoder's map of operations to residues (30_encoding R52, R53).
-/

namespace Sys2Proof.Laws.ResidueMap

/-- A well-formed instruction is the one its own residue selects. -/
def Statement (i : Instr) : Prop := i.wellFormed = true → decodeResidue (residueOf i) = i

theorem jmp : Statement .jmp := fun _ => rfl
theorem out : Statement .out := fun _ => rfl
theorem inp : Statement .inp := fun _ => rfl
theorem rot : Statement .rot := fun _ => rfl
theorem setD : Statement .setD := fun _ => rfl
theorem crz : Statement .crz := fun _ => rfl
theorem nop : Statement .nop := fun _ => rfl
theorem halt : Statement .halt := fun _ => rfl
theorem nopx (r : Residue) : Statement (.nopx r) := by
  revert r
  unfold Statement
  decide

end Sys2Proof.Laws.ResidueMap
end

