-- ==== Sys2Proof/Tests/Slice0.lean ====
section
/-!
SUPPORT. Tests. Expected values are those of spec/95_test_vectors.md (the vector is named), never the model's own; then
one witness for each statement that has hypotheses.
-/

namespace Sys2Proof.Tests

open Sys2Proof.Machine Sys2Proof.Frame

/-- A running machine with the registers and the cells a vector names. -/
def at_ (a c d : Word) (cells : Memory) : State :=
  { State.reset with phase := .running, a := a, c := c, d := d, mem := cells }

/-- A loader that has stored `cells` and has `items` before it. -/
def loading (cells : Memory) (items : List LoadItem) : State :=
  { State.reset with mem := cells, lpos := cells.length, load := items }

/-- Whether the outcome is a next state that passes a check. -/
def onNext (r : Result) (check : State → Bool) : Bool :=
  match r with
  | .next t => check t
  | _ => false

/-- The state an outcome leads to, or the state it started from. -/
def after (s : State) : State :=
  match step s with
  | .next t => t
  | _ => s

/-! ### WellFormed -/

/-- 30_encoding R52, R53: each assigned residue is refused as an unassigned one; the ends of the range are not. -/
theorem test_wellFormed_refuses_assigned_residues :
    (legalResidues.map fun r => (Instr.nopx r).wellFormed) = List.replicate 8 false ∧
    (Instr.nopx 0).wellFormed = true ∧ (Instr.nopx 93).wellFormed = true ∧ Instr.jmp.wellFormed = true := by decide

/-! ### Decode (95_test_vectors 2.2) -/

theorem test_decode_control : decode 97 1 = .jmp ∧ decode 68 0 = .nop ∧ decode 81 0 = .halt ∧ decode 48 79 = .nopx 33 := by
  decide

theorem test_decode_data : decode 39 0 = .rot ∧ decode 40 0 = .setD ∧ decode 62 0 = .crz ∧ decode 126 7 = .rot := by
  decide

theorem test_decode_io : decode 99 0 = .out ∧ decode 117 0 = .inp ∧ decode 100 93 = .out := by decide

/-- 42_decode_encrypt R110 and the table: sums of 59049 and more, both readings. -/
theorem test_decode_sum_at_the_top :
    residueWith true 255 58794 = 0 ∧ residueWith false 255 58794 = 17 ∧ residueWith true 53 59000 = 4 ∧
    residueWith false 53 59000 = 21 ∧ residueWith true 59048 59048 = 15 ∧ residueWith false 59048 59048 = 32 := by decide

/-- 30_encoding R58: the canonical text of SetD; Jmp; Crz; End; and the row p = 7 of the inverse table. -/
theorem test_encode_canonical_codes :
    encode .setD 0 = 40 ∧ encode .jmp 1 = 97 ∧ encode .crz 2 = 60 ∧ encode .halt 3 = 78 ∧ encode .rot 7 = 126 ∧
    encode .setD 7 = 33 := by decide

/-! ### The ALU (95_test_vectors 2.1) -/

theorem test_combine_both_orders :
    Alu.combine 12345 54321 = 19606 ∧ Alu.combine 54321 12345 = 54616 ∧ Alu.combine 0 0 = 29524 ∧
    Alu.combine 80 81 = 29483 := by decide

theorem test_rotate :
    Alu.rotate 2 = 39366 ∧ Alu.rotate 12345 = 4115 ∧ Alu.rotate 59047 = 39365 ∧ Alu.rotate 29556 = 9852 := by decide

theorem test_inc_add_wrap : Alu.inc 59048 = 0 ∧ Alu.add 59048 59048 = 59047 ∧ Alu.add 29545 29600 = 96 := by decide

theorem test_render_parse :
    Alu.render 72 = ['0', '0', '0', '0', '0', '0', '2', '2', '0', '0'] ∧
    Alu.parseText ['0', '0', '0', '0', '0', '0', '2', '2', '0', '0'] = some 72 ∧ Alu.parseText ['1', '2'] = none ∧
    Alu.parseText ['0', '0', '0', '0', '0', '0', '0', '0', '0', 'a'] = none := by decide

/-- 95_test_vectors 2.1: the refused arguments set the mark with its reason (60_exceptions R175), and a mark already set
stays (10_state R19). -/
theorem test_parse_marks :
    State.reset.parseArgument ['1', '2'] = ({ State.reset with refused := some .malformedTernaryText }, none) ∧
    (State.reset.refuse .emptyImage).parseArgument ['1', '2'] = (State.reset.refuse .emptyImage, none) ∧
    State.reset.parseArgument ['0', '0', '0', '0', '0', '0', '2', '2', '0', '0'] = (State.reset, some 72) := by decide

/-! ### One cycle of each instruction (95_test_vectors 2.5 to 2.7) -/

/-- K1. -/
theorem test_jmp_K1 :
    onNext (step (at_ 0 1 41 [(1, 97), (41, 78), (78, 29545)]))
      (fun t => t.c == 79 && t.d == 42 && t.a == 0 && t.read 1 == 97 && t.cycles == 1) = true := by decide

/-- K2: the target is cell 59048, which takes ENC(6), and execution goes on at 0. -/
theorem test_jmp_K2_target_ciphered :
    ((after (at_ 0 10 20 [(10, 88), (20, 59048), (59048, 100)])).c,
      (after (at_ 0 10 20 [(10, 88), (20, 59048), (59048, 100)])).read 59048) = (0, Word.ofByte (Config.enc 6)) := rfl

/-- K5. -/
theorem test_nop_K5 :
    onNext (step (at_ 7 3 43 [(3, 65)])) (fun t => t.c == 4 && t.d == 44 && t.a == 7) = true ∧
    (after (at_ 7 3 43 [(3, 65)])).read 3 = Word.ofByte (Config.enc 65) := ⟨by decide, rfl⟩

/-- K6. -/
theorem test_end_K6 :
    onNext (step { at_ 7 3 43 [(3, 78)] with cycles := 3 })
      (fun t => decide (t.phase = .halted) && t.a == 7 && t.c == 3 && t.d == 43 && t.read 3 == 78 && t.cycles == 3) = true := by
  decide

/-- K7. -/
theorem test_nopx_K7 :
    onNext (step (at_ 0 79 42 [(79, 48)])) (fun t => t.c == 80 && t.d == 43) = true ∧
    (after (at_ 0 79 42 [(79, 48)])).read 79 = Word.ofByte (Config.enc 48) := ⟨by decide, rfl⟩

/-- K8: both pointers wrap. -/
theorem test_nop_K8_wraps :
    onNext (step (at_ 0 59048 59048 [(59048, 69)])) (fun t => t.c == 0 && t.d == 0) = true := by decide

/-- M1. -/
theorem test_rot_M1 :
    onNext (step (at_ 5 57 60 [(57, 76), (60, 29556)]))
      (fun t => t.a == 9852 && t.read 60 == 9852 && t.c == 58 && t.d == 61) = true := by decide

/-- M2: D = C; the write-back reads the rotated value 13. -/
theorem test_rot_M2_own_cell :
    onNext (step (at_ 0 0 0 [(0, 39)])) (fun t => t.a == 13 && t.c == 1 && t.d == 1) = true ∧
    (after (at_ 0 0 0 [(0, 39)])).read 0 = Word.ofByte (Config.enc 13) := ⟨by decide, rfl⟩

/-- M4: the pointer is 59048, so D ends at 0. -/
theorem test_setD_M4 :
    onNext (step (at_ 0 2 9 [(2, 38), (9, 59048)]))
      (fun t => t.d == 0 && t.c == 3 && t.read 9 == 59048 && t.a == 0) = true := by decide

/-- M6: the second operand is not 0. -/
theorem test_crz_M6 :
    onNext (step (at_ 29524 2 42 [(2, 60), (42, 75)]))
      (fun t => t.a == 72 && t.read 42 == 72 && t.c == 3 && t.d == 43) = true := by decide

/-- M7: D = C; the write-back reads 29555, whose residue modulo 94 is 39. -/
theorem test_crz_M7_own_cell :
    onNext (step (at_ 0 0 0 [(0, 62)])) (fun t => t.a == 29555) = true ∧
    (after (at_ 0 0 0 [(0, 62)])).read 0 = Word.ofByte (Config.enc 39) := ⟨by decide, rfl⟩

/-- O1: only A mod 128 counts. -/
theorem test_out_O1 :
    onNext (step (at_ 58952 0 0 [(0, 99)]))
      (fun t => decide (t.out = [.char7 72]) && t.a == 58952 && t.c == 1 && t.d == 1) = true := by decide

/-- O2, O3: the mapping under the default VALID7 and under one that is false at 0. -/
theorem test_out_O2_O3 :
    outsymWith Config.valid7Default (code7 0) = .char7 0 ∧ outsymWith (fun c => c != 0) (code7 0) = .repl ∧
    code7 127 = 127 ∧ code7 128 = 0 ∧ code7 59048 = 40 := by decide

/-- I1. -/
theorem test_in_I1 :
    onNext (step { at_ 9 0 0 [(0, 117)] with inStream := [255] })
      (fun t => t.a == 255 && t.inPos == 1 && t.c == 1 && t.d == 1) = true := by decide

/-- I2 and I3: the fault at end of input changes nothing else; the hold changes nothing at all. -/
theorem test_in_I2_I3 :
    step { at_ 9 0 0 [(0, 117)] with inEnded := true } =
      .next { at_ 9 0 0 [(0, 117)] with inEnded := true, phase := .faulted, fault := some .inputExhausted } ∧
    step (at_ 9 0 0 [(0, 117)]) = .next (at_ 9 0 0 [(0, 117)]) := ⟨rfl, rfl⟩

/-- X5: after I2 no further step is enabled. -/
theorem test_faulted_stays :
    step { at_ 9 0 0 [(0, 117)] with phase := .faulted, fault := some .inputExhausted } = .fault .inputExhausted := rfl

/-! ### The loader (95_test_vectors 2.3, 2.8) -/

/-- L5: a control character at a position where its residue is legal; code 175 at position 0. -/
theorem test_load_L5 :
    onNext (step (loading (List.ofFn fun k : Fin 33 => (Word.ofNat k.val, 0)) [.char 7]))
      (fun t => t.lpos == 34 && t.read 33 == 7) = true ∧
    onNext (step (loading [] [.char 175])) (fun t => t.lpos == 1 && t.read 0 == 175) = true := by decide

/-- L2: whitespace does not advance the position. -/
theorem test_load_L2_whitespace :
    onNext (step (loading [(0, 40)] [.char 32, .char 97])) (fun t => t.lpos == 1 && decide (t.load = [.char 97])) = true := by
  decide

/-- L3 and L4: the fault carries the residue. -/
theorem test_load_L3_L4 :
    onNext (step (loading [(0, 40)] [.char 99]))
      (fun t => decide (t.phase = .faulted ∧ t.fault = some (.loadInvalidOpcode 6))) = true ∧
    onNext (step (loading [(0, 81)] [.char 81, .char 81]))
      (fun t => decide (t.fault = some (.loadInvalidOpcode 82))) = true := by decide

/-- L7 and X4: the refusals; the range test comes before the legality check, the length test before the range test. -/
theorem test_load_L7_X4 :
    onNext (step (loading [] [.endOfText])) (fun t => decide (t.refused = some .emptyImage)) = true ∧
    onNext (step (loading [] [.char 70000])) (fun t => decide (t.refused = some .charOutOfRange)) = true ∧
    onNext (step { State.reset with lpos := 59049, load := [.char 70000] })
      (fun t => decide (t.refused = some .imageTooLong)) = true ∧
    onNext (step { State.reset with lpos := 59049, load := [.char 32] })
      (fun t => decide (t.refused = none ∧ t.load = [])) = true := by decide

/-- L8: the tail of the text cP. -/
theorem test_load_L8_tail :
    onNext (step (loading [(0, 99), (1, 80)] [.endOfText]))
      (fun t => decide (t.phase = .running) && t.loadedLen == 2 && t.read 2 == 29493 && t.read 3 == 80 && t.read 4 == 29502 &&
        t.read 5 == 71 && t.read 7 == 80) = true := by decide

/-- L6: with L = 1 the first tail cell depends on MEM_INIT(59048). -/
theorem test_load_L6_tail :
    (after (loading [(0, 81)] [.endOfText])).read 1 = Alu.combine (Config.memInit 59048) 81 := rfl

/-! ### Other instances -/

/-- An instance with the spec's defaults, the plain decode sum and the candidate table. -/
def plain : Params where
  enc := Config.encStd
  decodeWrap := false
  memInit := fun _ => 0
  isWs := Config.isWsDefault
  valid7 := Config.valid7Default

/-- 42_decode_encrypt R110 and the row 53 at 59000 of 95_test_vectors 2.2: Jmp under the wrap, residue 21 without. -/
theorem test_plain_sum_at_the_top :
    (at_ 0 59000 0 [(59000, 53)]).fetch = .jmp ∧ (at_ 0 59000 0 [(59000, 53)]).fetchWith plain = .nopx 21 ∧
    encodeWith false .jmp 59040 = Word.ofNat (code 4 59040) := by decide

/-- K2 under ENC_STD: the target takes ENC(6) = 97, and execution goes on at 0. -/
theorem test_plain_jmp_K2 :
    onNext (stepWith plain (at_ 0 10 20 [(10, 88), (20, 59048), (59048, 100)])) (fun t => t.c == 0 && t.read 59048 == 97) = true := by
  decide

/-- L6: with MEM_INIT zero the tail of the text Q begins 29443, 81, 29443, 81 (41_loader R97). -/
theorem test_plain_tail_L6 :
    onNext (stepWith plain (loading [(0, 81)] [.endOfText]))
      (fun t => t.read 1 == 29443 && t.read 2 == 81 && t.read 3 == 29443 && t.read 4 == 81) = true := by decide

/-- 00_scope R7: a step of each outcome, and states where no step is enabled. -/
theorem test_outcomes :
    outcome (at_ 9 0 0 [(0, 117)]) = some .hold ∧
    outcome { at_ 9 0 0 [(0, 117)] with inEnded := true } = some (.fault .inputExhausted) ∧
    outcome (loading [] [.endOfText]) = some (.refuse .emptyImage) ∧
    outcome (at_ 7 3 43 [(3, 78)]) = some (.next (at_ 7 3 43 [(3, 78)]).enterHalted) ∧
    outcome State.reset = none ∧ outcome (at_ 7 3 43 [(3, 78)]).enterHalted = none := by decide

/-! ### Reset, placing a word, the candidate table -/

/-- Z2: OUT is not touched by a reset. -/
theorem test_reset_Z2 :
    ({ at_ 7 3 43 [(3, 78)] with out := [.char7 72], cycles := 3 }.applyMove .reset) = { State.reset with out := [.char7 72] } := by
  decide

theorem test_placed_word_runs_first :
    decodeTableWord 8 39 = some .rot ∧ onNext (step (State.reset.withFetchWord 8 39)) (fun t => t.a == 13 && t.cycles == 1) = true := by
  decide

/-- E2 and 93_implementation_defined G1: values and the range of the candidate table. -/
theorem test_encStd_values :
    (encryptWith Config.encStd 99 = 86 ∧ encryptWith Config.encStd 59048 = 126 ∧ encryptWith Config.encStd 29545 = 71) ∧
    Config.encStdRows.length = 94 ∧ (Config.encStdRows.all fun x => decide (33 ≤ x ∧ x ≤ 126)) = true ∧
    Config.encStdRows.Nodup := by decide

/-! ### Witnesses: the hypotheses of each statement can be met together -/

theorem test_witness_digit_indexes :
    (9 < 10 ∧ 8 < 9) ∧ (Alu.digits 39366)[9]? = some 2 ∧ (List.replicate 10 (2 : Trit)).length = 10 := by decide

/-- TernaryTextRoundTrips: a text that parses, and texts that fail each test. -/
theorem test_witness_texts :
    ((List.replicate 10 '2').length = 10 ∧ ∀ ch ∈ List.replicate 10 '2', ch = '0' ∨ ch = '1' ∨ ch = '2') ∧
    parse (List.replicate 10 '2') = .ok 59048 ∧ ¬((List.replicate 11 '0').length = 10) ∧
    ¬∀ ch ∈ ['0', 'a'], ch = '0' ∨ ch = '1' ∨ ch = '2' := by
  have h : Alu.parseText (List.replicate 10 '2') = some 59048 := by decide
  exact ⟨⟨rfl, fun ch hc => .inr (.inr (List.eq_of_mem_replicate hc))⟩, by rw [parse, h], by decide, fun hall => absurd (hall 'a' (by simp)) (by decide)⟩

/-- TheTwoReadingsOfTheDecodeSum, CodeIsThePrintableInverseOfTheResidue: the sums where the clauses meet, the end codes,
an address where the code's own sum is just below the wrap. -/
theorem test_witness_sums :
    (59048 : Word).val + (0 : Word).val ≤ 59048 ∧ 59049 ≤ (255 : Word).val + (58794 : Word).val ∧ 33 ≤ 33 ∧ 126 ≤ 126 ∧
    (code 16 58973 + (58973 : Word).val = 59048 ∧ residue (Word.ofNat (code 16 58973)) 58973 = 16) := by
  decide

/-- TheResidueSelectsTheOperation: a cell for each clause, the ends of the unassigned range among them. -/
theorem test_witness_residues :
    (residue 98 0).val = 4 ∧ (residue 99 0).val = 5 ∧ (residue 117 0).val = 23 ∧ (residue 39 0).val = 39 ∧
    (residue 40 0).val = 40 ∧ (residue 62 0).val = 62 ∧ (residue 68 0).val = 68 ∧ (residue 81 0).val = 81 ∧
    (residue 94 0).val ∉ [4, 5, 23, 39, 40, 62, 68, 81] ∧ (residue 93 0).val ∉ [4, 5, 23, 39, 40, 62, 68, 81] := by decide

/-- DecodeOfEncodeIsTheInstruction: well-formed instructions, at the addresses where the encoder changes its form. -/
theorem test_witness_wellFormed :
    (Instr.nopx 0).wellFormed = true ∧ Instr.halt.wellFormed = true ∧ code (residueOf .jmp) 59040 + 59040 ≥ 59049 ∧
    decode (encode .jmp 59040) 59040 = .jmp ∧ decode (encode (.nopx 93) 59048) 59048 = .nopx 93 := by decide

theorem test_witness_placed_word : decodeTableWord 16 59048 = some (.nopx 16) ∧ decodeTableWord 8 0 = some (.nopx 0) := by
  decide

/-- CanonicalMemoriesAreExtensional and TheTailFillIsTheLoaderLoop: canonical memories, the ends of the lengths. -/
theorem test_witness_memories :
    Memory.wf [(0, 81)] = true ∧ (∀ x, Memory.lookup [(0, 81)] x = Memory.lookup (Memory.write [] 0 81) x) ∧
    Memory.wf (Memory.write [] 0 81) = true ∧ 1 ≤ 59049 ∧ Memory.wf [(59048, 0)] = true :=
  ⟨rfl, fun _ => rfl, rfl, by decide, rfl⟩

/-- The encodings in the instruction statements, ReachedAt, and the two cases of StoresAndRewrites: running states whose
cell at C has each residue, with D = C and with D elsewhere. -/
theorem test_witness_running_cells :
    ((at_ 0 1 41 [(1, 97), (41, 78)]).phase = .running ∧
      (residue ((at_ 0 1 41 [(1, 97), (41, 78)]).read 1) 1).val = 4) ∧
    (residue ((at_ 0 3 43 [(3, 65)]).read 3) 3).val = 68 ∧ (residue ((at_ 0 3 43 [(3, 78)]).read 3) 3).val = 81 ∧
    ((residue ((at_ 0 79 42 [(79, 48)]).read 79) 79).val = 33 ∧ 33 ∉ [4, 5, 23, 39, 40, 62, 68, 81]) ∧
    ((residue ((at_ 0 0 0 [(0, 39)]).read 0) 0).val = 39 ∧ (at_ 0 0 0 [(0, 39)]).d = (at_ 0 0 0 [(0, 39)]).c) ∧
    (residue ((at_ 0 0 0 [(0, 40)]).read 0) 0).val = 40 ∧
    ((residue ((at_ 0 1 41 [(1, 61)]).read 1) 1).val = 62 ∧ (at_ 0 1 41 [(1, 61)]).d ≠ (at_ 0 1 41 [(1, 61)]).c) ∧
    (residue ((at_ 0 0 0 [(0, 99)]).read 0) 0).val = 5 ∧ (residue ((at_ 0 0 0 [(0, 117)]).read 0) 0).val = 23 := by decide

/-- OutAppendsOneSymbol: the end codes of the range that is valid in every reading. -/
theorem test_witness_out_codes :
    (32 ≤ (32 : Word).val % 128 ∧ (32 : Word).val % 128 ≤ 126) ∧ 32 ≤ (59006 : Word).val % 128 ∧ (126 : Word).val % 128 ≤ 126 := by
  decide

/-- The three statements of In: a byte at the read position; no byte with and without the end mark. -/
theorem test_witness_in :
    { at_ 9 0 0 [] with inStream := [1, 255], inPos := 1 }.inStream[1]? = some 255 ∧
    ({ at_ 9 0 0 [] with inStream := [1], inPos := 1, inEnded := true }.inStream[1]? = none ∧
      { at_ 9 0 0 [] with inStream := [1], inPos := 1, inEnded := true }.inEnded = true) ∧
    ((at_ 9 0 0 []).inStream[0]? = none ∧ (at_ 9 0 0 []).inEnded = false) := by decide

/-- Rules over running steps (ACycleCompletesOrChangesNothing, OnlyTheListedInstructionsWriteEachRegister,
OnlyTheListedWritersChangeMemory, StreamsMoveOnlyUnderOutAndIn): a Rot cycle that changes A and the cell at D. -/
theorem test_witness_running_step :
    (at_ 5 57 60 [(57, 76), (60, 29556)]).phase = .running ∧
    onNext (step (at_ 5 57 60 [(57, 76), (60, 29556)]))
      (fun t => t.read 60 != (at_ 5 57 60 [(57, 76), (60, 29556)]).read 60 && t.a != 5) = true ∧
    (at_ 5 57 60 [(57, 76), (60, 29556)]).fetch = .rot ∧ (at_ 5 57 60 [(57, 76), (60, 29556)]).fetch ≠ .jmp ∧
    (at_ 5 57 60 [(57, 76), (60, 29556)]).fetch ≠ .setD := by decide

/-- OnlyEndHalts. -/
theorem test_witness_halting_step :
    (at_ 0 0 0 [(0, 81)]).phase ≠ .halted ∧ onNext (step (at_ 0 0 0 [(0, 81)])) (fun t => decide (t.phase = .halted)) = true := by
  decide

/-- OnlyTheTwoFaultsAreTaken: one step for each of its two cases. -/
theorem test_witness_faulting_steps :
    ({ at_ 9 0 0 [(0, 117)] with inEnded := true }.phase ≠ .faulted ∧
      onNext (step { at_ 9 0 0 [(0, 117)] with inEnded := true }) (fun t => decide (t.phase = .faulted)) = true) ∧
    ((loading [] [.char 0]).phase ≠ .faulted ∧
      onNext (step (loading [] [.char 0])) (fun t => decide (t.phase = .faulted)) = true) := by decide

/-- ThePhaseMovesAsListed, StoppedPhasesStayStopped, AStepStopsOnlyAsRecorded: a step from each phase. -/
theorem test_witness_phases :
    step State.reset = .next State.reset ∧ (∃ t, step (at_ 0 0 0 [(0, 81)]) = .next t) ∧
    step { State.reset with phase := .halted } = .next { State.reset with phase := .halted } ∧
    step { State.reset with phase := .faulted, fault := some .inputExhausted } = .fault .inputExhausted ∧
    step { State.reset with phase := .faulted } = .next { State.reset with phase := .faulted } ∧
    step { State.reset with refused := some .emptyImage } = .refused (.refusedInput .emptyImage) :=
  ⟨rfl, ⟨_, rfl⟩, rfl, rfl, rfl, rfl⟩

/-- AHoldIsExactlyAStepThatChangesNothing: a hold and a step that is none; a loader that waits, which is no hold, and one
that does not. -/
theorem test_witness_holds :
    ((at_ 9 0 0 [(0, 117)]).phase = .running ∧ (at_ 9 0 0 [(0, 117)]).held = true ∧ (at_ 9 0 0 [(0, 68)]).held = false) ∧
    (State.reset.phase = .loading ∧ State.reset.awaitsLoad = true ∧ State.reset.held = false) ∧
    (loading [] [.endOfText]).awaitsLoad = false := by decide

/-- RunningStepsIgnoreTheBookkeeping: two running states that differ in the bookkeeping only. -/
theorem test_witness_bookkeeping :
    SameMachine (at_ 7 3 43 [(3, 65)]) { at_ 7 3 43 [(3, 65)] with cycles := 9, loadedLen := 4, lpos := 4 } ∧
    at_ 7 3 43 [(3, 65)] ≠ { at_ 7 3 43 [(3, 65)] with cycles := 9, loadedLen := 4, lpos := 4 } :=
  ⟨⟨rfl, rfl, rfl, rfl, rfl, rfl, rfl, rfl⟩, by decide⟩

/-- EqualPointersStayEqual and ARevisitDecodesTheSubstitute: a completed Crz cycle with D = C; one with D elsewhere. -/
theorem test_witness_pointers :
    ((at_ 0 0 0 [(0, 62)]).d = (at_ 0 0 0 [(0, 62)]).c ∧ (∃ t, exec .crz (at_ 0 0 0 [(0, 62)]) = .next t)) ∧
    ((at_ 0 1 41 [(1, 61), (41, 29494)]).fetch = .crz ∧
      (at_ 0 1 41 [(1, 61), (41, 29494)]).d ≠ (at_ 0 1 41 [(1, 61), (41, 29494)]).c ∧
      onNext (step (at_ 0 1 41 [(1, 61), (41, 29494)])) (fun t => t.cycles == 1) = true) :=
  ⟨⟨rfl, ⟨_, rfl⟩⟩, by decide⟩

/-- AJmpCellSurvivesItsJump. -/
theorem test_witness_jump :
    decode ((at_ 0 1 41 [(1, 97), (41, 78)]).read 1) 1 = .jmp ∧ (at_ 0 1 41 [(1, 97), (41, 78)]).read 41 ≠ 1 ∧
    onNext (step (at_ 0 1 41 [(1, 97), (41, 78)])) (fun _ => true) = true := by decide

/-- A loader that has stored the one character Q. -/
def loadingQ : State := loading [(0, 81)] [.endOfText]

/-- The state after the text Q has loaded. -/
def loadedQ : State := loadingQ.finishLoad []

/-- The invariant in phase LOADING with a character stored (EveryStepKeepsTheInvariant,
TheFirstInstructionAfterALoadIsLegal). -/
theorem test_witness_inv_loading : loadingQ.Inv ∧ loadingQ.phase = .loading ∧ step loadingQ = .next loadedQ := by
  refine ⟨⟨rfl, by decide, by decide, by decide, by decide, by decide, fun _ => ⟨rfl, rfl, rfl, rfl⟩, fun _ k => ?_,
    by decide, fun h => ?_⟩, rfl, rfl⟩
  · have hlen : loadingQ.lpos = 1 := rfl
    have hmem : loadingQ.mem = [(0, 81)] := rfl
    rw [hlen, hmem]
    refine ⟨fun h => ⟨81, ?_, ?_⟩, fun h => ?_⟩
    · simp only [Memory.lookup]
      exact if_pos (by simpa using h)
    · have hk : k = 0 := Fin.ext (by simpa using h)
      rw [hk]
      decide
    · have hk : ¬k.val = (0 : Word).val := by
        have : (0 : Word).val = 0 := rfl
        omega
      have hk' : ¬k.val < (0 : Word).val := Nat.not_lt_zero _
      simp only [Memory.lookup, if_neg hk, if_neg hk']
  · rcases h with h | h <;> cases h

/-- The invariant in phase RUNNING (EveryStepKeepsTheInvariant, EveryEnvironmentMoveKeepsTheInvariant,
EveryRunKeepsTheInvariant): the loaded state meets it and steps. -/
theorem test_witness_inv_running :
    loadedQ.Inv ∧ loadedQ.phase = .running ∧ step loadedQ = .next loadedQ.enterHalted ∧
    runEvents [.env (.supplyByte 7), .step] State.reset = .next { State.reset with inStream := [7] } := by
  have hwf : Memory.wf [((0 : Word), (81 : Word))] = true := rfl
  refine ⟨⟨Memory.wf_fillTail _ _ hwf (by decide), by decide, by decide, by decide, by decide, by decide, fun h => ?_,
    fun h => ?_, fun _ => by decide, fun _ k => ?_⟩, rfl, rfl, rfl⟩
  · cases h
  · cases h
  · by_cases hk : k.val < 1
    · have h0 : k = 0 := Fin.ext (by simpa using hk)
      subst h0
      rfl
    · exact Memory.fillTail_written _ _ (by decide) (show 1 ≤ k.val by omega)

/-- WhitespaceIsDropped, ALegalCharacterIsStoredRaw, AnIllegalCharacterTakesTheLoadFault: a character for each. -/
theorem test_witness_characters :
    ((loading [] [.char 10]).load = [.char 10] ∧ Config.isWs 10 = true) ∧
    (Config.isWs 81 = false ∧ LegalAt 81 0) ∧
    (Config.isWs 59048 = false ∧ (residue (Word.ofNat 59048) (Word.ofNat 0)).val ∉ [4, 5, 23, 39, 40, 62, 68, 81]) :=
  ⟨by decide, ⟨by decide, by decide, by decide, by decide⟩, by decide⟩

/-- TheLoaderRefusesInOrder: codes just outside the range at the last free position, and the first position past memory. -/
theorem test_witness_refusals :
    (Config.isWs 59049 = false ∧ (59048 : Int) < 59049) ∧ (Config.isWs (-1) = false ∧ (-1 : Int) < 0) ∧
    { State.reset with lpos := 59049 }.lpos = 59049 ∧ { State.reset with lpos := 59048 }.lpos < 59049 ∧
    (loading [] [.endOfText]).lpos = 0 := by decide

/-- TheEndOfTextFillsTheTail: loaded lengths 1, 2 and 59049, with an address for each clause. -/
theorem test_witness_tail :
    ((loading [(0, 81)] [.endOfText]).lpos = 1 ∧ Memory.wf (loading [(0, 81)] [.endOfText]).mem = true) ∧
    ((loading [(0, 99), (1, 80)] [.endOfText]).lpos = 2 ∧ Memory.wf (loading [(0, 99), (1, 80)] [.endOfText]).mem = true) ∧
    ({ State.reset with lpos := 59049, load := [.endOfText] }.lpos ≤ 59049) ∧ 2 ≤ (2 : Word).val ∧ (0 : Word).val < 1 := by
  decide

/-- A fresh loader before the text of vector L2. -/
def freshL2 : State := State.reset.applyMove (.presentText [40, 32, 97, 10, 60, 9, 78, 13, 10])

/-- TheLoaderLoadsEveryLegalText: the text of L2 meets its hypotheses. -/
theorem test_witness_legal_text :
    FreshLoader freshL2 ∧
    freshL2.load = [40, 32, 97, 10, 60, 9, 78, 13, 10].map LoadItem.char ++ LoadItem.endOfText :: [] ∧
    significant [40, 32, 97, 10, 60, 9, 78, 13, 10] = [40, 97, 60, 78] ∧ AllLegal [40, 97, 60, 78] := by
  refine ⟨⟨rfl, rfl, rfl, rfl⟩, rfl, by decide, fun k ch h => ?_⟩
  match k, h with
  | 0, h => cases h; exact ⟨by decide, by decide, by decide⟩
  | 1, h => cases h; exact ⟨by decide, by decide, by decide⟩
  | 2, h => cases h; exact ⟨by decide, by decide, by decide⟩
  | 3, h => cases h; exact ⟨by decide, by decide, by decide⟩

/-- TheFirstIllegalCharacterDecides: the text of vector L3, with an item after the illegal character. -/
theorem test_witness_illegal_text :
    FreshLoader (loading [] [.char 40, .char 99, .endOfText]) ∧ significant [40] = [40] ∧ LegalAt 40 0 ∧
    AllLegal (significant [40]) ∧ Config.isWs 99 = false ∧ ¬LegalAt 99 (significant [40]).length := by
  have hs : significant [40] = [40] := by decide
  refine ⟨⟨rfl, rfl, rfl, rfl⟩, hs, ⟨by decide, by decide, by decide⟩, ?_, by decide, fun h => ?_⟩
  · rw [hs]
    intro k ch h
    match k, h with
    | 0, h => cases h; exact ⟨by decide, by decide, by decide⟩
  · rw [hs] at h
    exact absurd h.2.2 (by decide)

/-- EitherReadingDecodesItsEncoding: the addresses where the two encoders differ. -/
theorem test_witness_either_reading :
    (Instr.nopx 93).wellFormed = true ∧ encodeWith true (.nopx 93) 59048 ≠ encodeWith false (.nopx 93) 59048 := by decide

/-- EveryInstanceKeepsItsInvariant, EveryRunOfEveryInstanceKeepsItsInvariant: a state that meets the invariant of `plain`,
and a run of it. -/
theorem test_witness_instance_inv :
    State.reset.InvWith plain ∧ stepWith plain State.reset = .next State.reset ∧
    runEventsWith plain [.env (.supplyLoad (.char 32)), .step] State.reset = .next State.reset :=
  ⟨⟨rfl, by decide, by decide, by decide, by decide, by decide, fun _ => ⟨rfl, rfl, rfl, rfl⟩,
    fun _ k => ⟨fun h => absurd h (Nat.not_lt_zero _), fun _ => rfl⟩, by decide, fun h => by rcases h with h | h <;> cases h⟩, rfl, rfl⟩

/-- `plain` with another reading of the sum, other whitespace and other output codes. -/
def other : Params := { plain with decodeWrap := true, isWs := fun ch => ch == 32, valid7 := fun c => c != 0 }

/-- AStepConsultsTheParametersOnlyWhereItLooks: a running and a loading state that meet its hypotheses, at the boundary
sum 59048. -/
theorem test_witness_consults :
    plain.enc = other.enc ∧ plain.memInit = other.memInit ∧
    ((at_ 72 0 0 [(0, 59048)]).readWith plain 0).val + 0 = 59048 ∧
    ((at_ 72 0 0 [(0, 99)]).fetchWith plain = .out ∧ plain.valid7 (code7 72) = other.valid7 (code7 72)) ∧
    plain.isWs 81 = other.isWs 81 ∧ (81 : Int).toNat + 0 < 59049 := ⟨rfl, rfl, by decide, by decide, by decide, by decide⟩

/-- OnlyAOneCharacterTextReadsMemInit: the excluded step reads it; the state before a text is not excluded. -/
theorem test_witness_memInit :
    State.reset.InvWith plain ∧
    ¬(State.reset.phase = .loading ∧ State.reset.lpos = 1 ∧ ∃ rest, State.reset.load = .endOfText :: rest) ∧
    onNext (stepWith { plain with memInit := fun _ => 59048 } (loading [(0, 81)] [.endOfText])) (fun t => t.read 1 == 59048) = true :=
  ⟨test_witness_instance_inv.1, fun h => absurd h.2.1 (by decide), by decide⟩

end Sys2Proof.Tests
end

section
/-!
SUPPORT. The invariant under every choice of the parameters (00_scope R4): what each named update needs to keep it, that
every step, environment move and use of `parse` keeps it, and so every run.
-/

namespace Sys2Proof.Machine

/-! ### Written cells -/

theorem Memory.lookup_write_isSome {m : Memory} {b : Word} (a v : Word) (h : (Memory.lookup m b).isSome = true) :
    (Memory.lookup (Memory.write m a v) b).isSome = true := by
  rw [Memory.lookup_write]
  split
  · rfl
  · exact h

theorem State.FullyWritten.of_mem_eq_write {s t : State} {a v : Word} (hs : s.FullyWritten)
    (hmem : t.mem = Memory.write s.mem a v) : t.FullyWritten :=
  fun k => hmem ▸ Memory.lookup_write_isSome a v (hs k)

/-- The tail fill leaves no cell unwritten: below `LPOS` stands the legal image, the rest is the tail. -/
theorem State.ImageLegalWith.finishLoadWith_fullyWritten {P : Params} {s : State} (himage : s.ImageLegalWith P)
    (hwf : Memory.wf s.mem = true) (hlpos : s.lpos ≤ 59049) (rest : List LoadItem) :
    (s.finishLoadWith P rest).FullyWritten := by
  intro k
  rw [State.finishLoadWith_mem]
  rcases Nat.lt_or_ge k.val s.lpos with hk | hk
  · obtain ⟨v, hv, -⟩ := (himage k).1 hk
    rw [Memory.lookup_fillTailWith_low _ _ _ hwf hlpos hk, hv]
    rfl
  · exact Memory.fillTailWith_written _ _ _ hlpos hk

/-- Storing a legal character extends the legal image by one cell (41_loader R93, R94). -/
theorem State.ImageLegalWith.storeChar {P : Params} {s : State} {v : Word} (himage : s.ImageLegalWith P)
    (hlpos : s.lpos < 59049) (hlegal : legal (residueWith P.decodeWrap v (Word.ofNat s.lpos)) = true)
    (rest : List LoadItem) : (s.storeChar v rest).ImageLegalWith P := by
  have hval : (Word.ofNat s.lpos).val = s.lpos := Word.val_ofNat_of_lt hlpos
  intro k
  rw [State.storeChar_mem, State.storeChar_lpos, Memory.lookup_write]
  by_cases hk : k = Word.ofNat s.lpos
  · rw [if_pos hk]
    subst k
    exact ⟨fun _ => ⟨v, rfl, hlegal⟩, fun h => by omega⟩
  · rw [if_neg hk]
    have hne : k.val ≠ s.lpos := fun h => hk (Fin.ext (h.trans hval.symm))
    exact ⟨fun h => (himage k).1 (by omega), fun h => (himage k).2 (by omega)⟩

/-! ### The invariant in phase RUNNING -/

/-- What the invariant says of a running state; no parameter enters. -/
theorem State.invWith_iff_of_running {P : Params} {s : State} (hrun : s.phase = .running) :
    s.InvWith P ↔
      Memory.wf s.mem = true ∧ s.FullyWritten ∧ s.inPos ≤ s.inStream.length ∧ s.fault = none ∧
      (s.refused = none ∨ s.refused = some .malformedTernaryText) ∧
      s.loadedLen = s.lpos ∧ 1 ≤ s.lpos ∧ s.lpos ≤ 59049 := by
  constructor
  · intro hs
    obtain ⟨hlen, hpos⟩ := hs.loadedLen (.inl hrun)
    refine ⟨hs.memWf, hs.loadedMem (.inl hrun), hs.inPosLe, ?_, ?_, hlen, hpos, hs.lposLe⟩
    · simpa [hrun] using hs.faultIff
    · simpa [hrun] using hs.refusedLoading
  · rintro ⟨hwf, hfull, hin, hfault, hrefused, hlen, hpos, hlpos⟩
    exact {
      memWf := hwf
      lposLe := hlpos
      inPosLe := hin
      faultIff := by simp [hrun, hfault]
      faultKind := by simp [hfault]
      refusedLoading := hrefused.imp_right .inl
      loadingRegs := by simp [hrun]
      loadingImage := by simp [hrun]
      loadedLen := fun _ => ⟨hlen, hpos⟩
      loadedMem := fun _ => hfull }

/-- A byte to be taken lies within what has been supplied. -/
theorem State.inPos_lt_of_nextByte {s : State} {b : Byte} (h : s.nextByte = some b) :
    s.inPos < s.inStream.length :=
  (List.getElem?_eq_some_iff.mp h).1

/-- Dispatch writes at most one cell. -/
theorem dispatched_mem {P : Params} {i : Instr} {s u : State} (h : DispatchedWith P i s u) :
    u.mem = s.mem ∨ u.mem = Memory.write s.mem s.d u.a := by
  rcases dispatched_a_mem h with ⟨-, hmem⟩ | ⟨-, hmem⟩ | ⟨-, hmem⟩
  · exact .inl hmem
  · exact .inr hmem
  · exact .inl hmem

theorem State.InvWith.dispatched {P : Params} {i : Instr} {s u : State} (hs : s.InvWith P)
    (hrun : s.phase = .running) (hd : DispatchedWith P i s u) : u.InvWith P := by
  obtain ⟨hphase, hlpos, hloaded, -, hfault, hrefused, -, hstream, -⟩ := dispatched_frame hd
  obtain ⟨hwf, hfull, hin, hrest⟩ := (State.invWith_iff_of_running hrun).mp hs
  refine (State.invWith_iff_of_running (hphase.trans hrun)).mpr ?_
  rw [hfault, hrefused, hloaded, hlpos, hstream]
  have hin' : u.inPos ≤ s.inStream.length := by
    rcases dispatched_inPos hd with h | ⟨-, h, b, hb, -⟩
    · exact h ▸ hin
    · exact h ▸ State.inPos_lt_of_nextByte hb
  rcases dispatched_mem hd with hmem | hmem
  · exact ⟨hmem ▸ hwf, fun k => hmem ▸ hfull k, hin', hrest⟩
  · exact ⟨hmem ▸ Memory.wf_write _ _ _ hwf, hfull.of_mem_eq_write hmem, hin', hrest⟩

theorem State.InvWith.completeCycleWith {P : Params} {s : State} (hs : s.InvWith P) (hrun : s.phase = .running) :
    (s.completeCycleWith P).InvWith P := by
  obtain ⟨hwf, hfull, hrest⟩ := (State.invWith_iff_of_running hrun).mp hs
  have hphase : (s.completeCycleWith P).phase = .running := hrun
  exact (State.invWith_iff_of_running hphase).mpr
    ⟨Memory.wf_write _ _ _ hwf, hfull.of_mem_eq_write (State.completeCycleWith_mem P s), hrest⟩

/-! ### The phase changes and the records -/

theorem State.InvWith.enterHalted {P : Params} {s : State} (hs : s.InvWith P) (hrun : s.phase = .running) :
    s.enterHalted.InvWith P := by
  obtain ⟨-, hfull, -, hfault, hrefused, hlen, hpos, -⟩ := (State.invWith_iff_of_running hrun).mp hs
  exact { hs with
    faultIff := by simp [hfault]
    refusedLoading := hrefused.imp_right .inl
    loadingRegs := by simp
    loadingImage := by simp
    loadedLen := fun _ => ⟨hlen, hpos⟩
    loadedMem := fun _ => hfull }

/-- A fault can be taken wherever no reason of the loader's is recorded: FAULTED is not LOADING. -/
theorem State.InvWith.raiseFault {P : Params} {s : State} (hs : s.InvWith P) {f : Fault}
    (hkind : f ≠ .invariantViolation) (hrefused : s.refused = none ∨ s.refused = some .malformedTernaryText) :
    (s.raiseFault f).InvWith P :=
  { hs with
    faultIff := by simp
    faultKind := by simpa using hkind
    refusedLoading := hrefused.imp_right .inl
    loadingRegs := by simp
    loadingImage := by simp
    loadedLen := by simp
    loadedMem := by simp }

theorem State.InvWith.refuse {P : Params} {s : State} (hs : s.InvWith P) {r : RefuseReason}
    (hr : r = .malformedTernaryText ∨ s.phase = .loading) : (s.refuse r).InvWith P :=
  { hs with refusedLoading := .inr (hr.imp_left (congrArg some)) }

/-! ### The loader -/

theorem State.InvWith.consume {P : Params} {s : State} (hs : s.InvWith P) (rest : List LoadItem) :
    (s.consume rest).InvWith P :=
  { hs with }

theorem State.InvWith.storeChar {P : Params} {s : State} {v : Word} (hs : s.InvWith P) (hload : s.phase = .loading)
    (hlpos : s.lpos < 59049) (hlegal : legal (residueWith P.decodeWrap v (Word.ofNat s.lpos)) = true)
    (rest : List LoadItem) : (s.storeChar v rest).InvWith P :=
  { hs with
    memWf := Memory.wf_write _ _ _ hs.memWf
    lposLe := hlpos
    loadingImage := fun _ => (hs.loadingImage hload).storeChar hlpos hlegal rest
    loadedLen := by simp [hload]
    loadedMem := by simp [hload] }

theorem State.InvWith.finishLoadWith {P : Params} {s : State} (hs : s.InvWith P) (hload : s.phase = .loading)
    (hrefused : s.refused = none) (hpos : s.lpos ≠ 0) (rest : List LoadItem) : (s.finishLoadWith P rest).InvWith P :=
  have hfault : s.fault = none := by simpa [hload] using hs.faultIff
  (State.invWith_iff_of_running rfl).mpr
    ⟨Memory.wf_fillTailWith _ _ _ hs.memWf hs.lposLe,
      (hs.loadingImage hload).finishLoadWith_fullyWritten hs.memWf hs.lposLe rest,
      hs.inPosLe, hfault, .inl hrefused, rfl, Nat.one_le_iff_ne_zero.mpr hpos, hs.lposLe⟩

theorem State.InvWith.loadCharWith {P : Params} {s : State} (hs : s.InvWith P) (hload : s.phase = .loading)
    (hrefused : s.refused = none) (ch : Int) (rest : List LoadItem) : (loadCharWith P ch rest s).InvWith P := by
  rcases loadCharWith_cases P ch rest s with
    ⟨-, e⟩ | ⟨-, -, e⟩ | ⟨-, -, -, e⟩ | ⟨-, hlpos, -, -, hlegal, e⟩ | ⟨-, -, -, -, -, e⟩
  · exact e ▸ hs.consume rest
  · exact e ▸ hs.refuse (.inr hload)
  · exact e ▸ hs.refuse (.inr hload)
  · exact e ▸ hs.storeChar hload hlpos hlegal rest
  · exact e ▸ hs.raiseFault (by simp) (.inl hrefused)

theorem State.InvWith.loadStepWith {P : Params} {s t : State} (hs : s.InvWith P) (hload : s.phase = .loading)
    (h : loadStepWith P s = .next t) : t.InvWith P := by
  obtain ⟨hrefused, ⟨-, rfl⟩ | ⟨ch, rest, -, rfl⟩ | ⟨rest, -, -, rfl⟩ | ⟨rest, -, hpos, rfl⟩⟩ := loadStepWith_cases h
  · exact hs
  · exact hs.loadCharWith hload hrefused ch rest
  · exact hs.refuse (.inr hload)
  · exact hs.finishLoadWith hload hrefused hpos rest

/-! ### Steps, moves and runs -/

theorem State.InvWith.execWith {P : Params} {i : Instr} {s t : State} (hs : s.InvWith P) (hrun : s.phase = .running)
    (h : execWith P i s = .next t) : t.InvWith P := by
  rcases execWith_cases h with ⟨u, hd, rfl⟩ | ⟨-, rfl⟩ | ⟨-, -, -, rfl⟩ | ⟨-, -, -, rfl⟩
  · obtain ⟨hphase, -⟩ := dispatched_frame hd
    exact (hs.dispatched hrun hd).completeCycleWith (hphase.trans hrun)
  · exact hs.enterHalted hrun
  · obtain ⟨-, -, -, -, hrefused, -⟩ := (State.invWith_iff_of_running hrun).mp hs
    exact hs.raiseFault (by simp) hrefused
  · exact hs

theorem State.InvWith.stepWith {P : Params} {s t : State} (hs : s.InvWith P) (h : stepWith P s = .next t) :
    t.InvWith P := by
  rcases stepWith_cases h with ⟨hload, h⟩ | ⟨hrun, h⟩ | ⟨-, rfl⟩ | ⟨-, -, rfl⟩
  · exact hs.loadStepWith hload h
  · exact hs.execWith hrun h
  · exact hs
  · exact hs

/-- The read position of `IN`, which a reset leaves where it was, is all that needs the invariant from before. -/
theorem State.InvWith.resetEvent {P : Params} {s : State} (hs : s.InvWith P) : s.resetEvent.InvWith P where
  memWf := rfl
  lposLe := Nat.zero_le _
  inPosLe := hs.inPosLe
  faultIff := by simp
  faultKind := by simp
  refusedLoading := .inl rfl
  loadingRegs := fun _ => ⟨rfl, rfl, rfl, rfl⟩
  loadingImage := fun _ _ => ⟨fun h => absurd h (Nat.not_lt_zero _), fun _ => rfl⟩
  loadedLen := by simp
  loadedMem := by simp

theorem State.InvWith.applyMove {P : Params} {s : State} (hs : s.InvWith P) (m : EnvMove) :
    (s.applyMove m).InvWith P := by
  cases m with
  | reset => exact hs.resetEvent
  | supplyLoad x => exact { hs with }
  | presentText codes => exact { hs with }
  | supplyByte b =>
    simp only [State.applyMove]
    split
    · exact hs
    · have hlen : s.inPos ≤ (s.inStream ++ [b]).length := by
        rw [List.length_append]
        exact Nat.le_add_right_of_le hs.inPosLe
      exact { hs with inPosLe := hlen }
  | endInput => exact { hs with }

theorem State.InvWith.parseArgument {P : Params} {s : State} (hs : s.InvWith P) (text : List Char) :
    (s.parseArgument text).1.InvWith P := by
  rcases State.parseArgument_cases text s with ⟨w, -, e⟩ | ⟨r, hr, e⟩ <;> rw [e]
  · exact hs
  · rcases State.markRefused_cases r s with ⟨-, e⟩ | ⟨-, e⟩ <;> rw [e]
    · exact hs.refuse (.inl (parse_error hr))
    · exact hs

theorem State.InvWith.runEventWith {P : Params} {e : Event} {s t : State} (hs : s.InvWith P)
    (h : runEventWith P e s = .next t) : t.InvWith P := by
  cases e with
  | step => exact hs.stepWith h
  | env m => cases h; exact hs.applyMove m
  | parse text => cases h; exact hs.parseArgument text

/-- A run that answers a next state is its first event and then the run of the rest. -/
theorem runEventsWith_cons {P : Params} {e : Event} {rest : List Event} {s t : State}
    (h : runEventsWith P (e :: rest) s = .next t) :
    ∃ u, runEventWith P e s = .next u ∧ runEventsWith P rest u = .next t := by
  simp only [runEventsWith] at h
  split at h
  · exact ⟨_, ‹_›, h⟩
  · cases h
  · cases h

theorem State.InvWith.runEventsWith {P : Params} {events : List Event} {s t : State} (hs : s.InvWith P)
    (h : runEventsWith P events s = .next t) : t.InvWith P := by
  induction events generalizing s with
  | nil => exact Host.Outcome.next.inj h ▸ hs
  | cons e rest ih =>
    obtain ⟨u, he, hrest⟩ := runEventsWith_cons h
    exact ih (hs.runEventWith he) hrest

/-- Settles O56: by phase, and within a phase by what the step did. -/
theorem everyInstanceKeepsItsInvariant : Obligations.EveryInstanceKeepsItsInvariant :=
  fun _ _ _ hs h => hs.stepWith h

/-- Settles O57: by induction on the events. -/
theorem everyRunOfEveryInstanceKeepsItsInvariant : Obligations.EveryRunOfEveryInstanceKeepsItsInvariant :=
  fun _ _ _ _ hs h => hs.runEventsWith h

end Sys2Proof.Machine
end

section
/-!
SUPPORT. The four outcomes of a step (00_scope R7): what a step answers where none is enabled, at a hold, and everywhere
else, and from that which outcome it has.
-/

namespace Sys2Proof.Machine

/-! ### Which steps are enabled, which are holds -/

theorem State.enabled_eq_false_iff (s : State) :
    s.enabled = false ↔
      s.phase = .halted ∨ s.phase = .faulted ∨ (s.phase = .loading ∧ (s.refused ≠ none ∨ s.load = [])) := by
  unfold State.enabled
  cases s.phase with
  | loading => cases s.refused <;> simp
  | running => simp
  | halted => simp
  | faulted => simp

theorem State.enabled_of_running {s : State} (hrun : s.phase = .running) : s.enabled = true := by
  simp [State.enabled, hrun]

theorem State.heldWith_iff (P : Params) (s : State) :
    s.heldWith P = true ↔
      s.phase = .running ∧ s.fetchWith P = .inp ∧ s.nextByte = none ∧ s.inEnded = false := by
  simp [State.heldWith, and_assoc]

theorem State.heldWith_of_loading (P : Params) {s : State} (hload : s.phase = .loading) : s.heldWith P = false := by
  simp [State.heldWith, hload]

theorem State.awaitsLoad_iff {s : State} (hload : s.phase = .loading) :
    s.awaitsLoad = true ↔ s.refused = none ∧ s.load = [] := by
  simp [State.awaitsLoad, hload]

theorem stepWith_of_running (P : Params) {s : State} (hrun : s.phase = .running) :
    stepWith P s = execWith P (s.fetchWith P) s := by
  simp only [stepWith, hrun]

theorem stepWith_of_loading (P : Params) {s : State} (hload : s.phase = .loading) :
    stepWith P s = loadStepWith P s := by
  simp only [stepWith, hload]

theorem stepWith_of_awaitsLoad (P : Params) {s : State} (hload : s.phase = .loading) (h : s.awaitsLoad = true) :
    stepWith P s = .next s := by
  obtain ⟨hrefused, hitems⟩ := (State.awaitsLoad_iff hload).mp h
  rw [stepWith_of_loading P hload]
  simp only [loadStepWith, hrefused, hitems]

theorem stepWith_of_heldWith {P : Params} {s : State} (h : s.heldWith P = true) : stepWith P s = .next s := by
  obtain ⟨hrun, hfetch, hbyte, hended⟩ := (State.heldWith_iff P s).mp h
  rw [stepWith_of_running P hrun, hfetch]
  simp [execWith, execInWith, hbyte, hended]

/-- A step that is not enabled changes nothing, if it answers a state at all. -/
theorem stepWith_eq_self_of_not_enabled {P : Params} {s t : State} (he : s.enabled = false)
    (h : stepWith P s = .next t) : t = s := by
  rcases stepWith_cases h with ⟨hload, h⟩ | ⟨hrun, -⟩ | ⟨-, ht⟩ | ⟨-, -, ht⟩
  · obtain ⟨hrefused, hcases⟩ := loadStepWith_cases h
    have hitems : s.load = [] := by simpa [State.enabled, hload, hrefused] using he
    simpa [hitems] using hcases
  · exact absurd (State.enabled_of_running hrun) (by simp [he])
  · exact ht
  · exact ht

/-! ### What a step that is enabled and no hold does -/

/-- Such a step's next state and its outcome: a fault is taken, an input refused, or another state reached that is
neither in FAULTED nor refused while LOADING. -/
inductive Moved (s : State) : State → StepOutcome → Prop
  | fault (f : Fault) (hs : s.phase ≠ .faulted) : Moved s (s.raiseFault f) (.fault f)
  | refuse (r : RefuseReason) (hload : s.phase = .loading) (hrefused : s.refused = none) :
    Moved s (s.refuse r) (.refuse r)
  | next {t : State} (hne : t ≠ s) (hphase : t.phase ≠ .faulted) (hrefused : t.phase = .loading → t.refused = none) :
    Moved s t (.next t)

theorem State.raiseFault_ne {s : State} (f : Fault) (hs : s.phase ≠ .faulted) : s.raiseFault f ≠ s :=
  fun e => hs (congrArg State.phase e).symm

theorem State.refuse_ne {s : State} (r : RefuseReason) (hrefused : s.refused = none) : s.refuse r ≠ s :=
  fun e => by simpa [hrefused] using congrArg State.refused e

theorem Moved.ne {s t : State} {o : StepOutcome} (h : Moved s t o) : t ≠ s := by
  cases h with
  | fault f hs => exact State.raiseFault_ne f hs
  | refuse r hload hrefused => exact State.refuse_ne r hrefused
  | next hne => exact hne

theorem StepOutcome.ofNext_raiseFault (f : Fault) (s : State) :
    StepOutcome.ofNext (s.raiseFault f) = some (.fault f) := rfl

theorem StepOutcome.ofNext_refuse {s : State} (r : RefuseReason) (hload : s.phase = .loading) :
    StepOutcome.ofNext (s.refuse r) = some (.refuse r) := by
  simp [StepOutcome.ofNext, hload]

theorem StepOutcome.ofNext_of_unrecorded {t : State} (hphase : t.phase ≠ .faulted)
    (hrefused : t.phase = .loading → t.refused = none) : StepOutcome.ofNext t = some (.next t) := by
  unfold StepOutcome.ofNext
  cases hp : t.phase with
  | loading => rw [hrefused hp]
  | running => rfl
  | halted => rfl
  | faulted => exact absurd hp hphase

/-- The outcome of such a step is the one its next state shows. -/
theorem Moved.ofNext_eq {s t : State} {o : StepOutcome} (h : Moved s t o) : StepOutcome.ofNext t = some o := by
  cases h with
  | fault f => exact StepOutcome.ofNext_raiseFault f s
  | refuse r hload => exact StepOutcome.ofNext_refuse r hload
  | next _ hphase hrefused => exact StepOutcome.ofNext_of_unrecorded hphase hrefused

/-- A loader step that takes its item from `LOAD` and stays in LOADING, unrefused, has moved. -/
theorem moved_of_load {s t : State} {x : LoadItem} {rest : List LoadItem} (hitems : s.load = x :: rest)
    (ht : t.load = rest) (hphase : t.phase ≠ .faulted) (hrefused : t.refused = none) :
    Moved s t (.next t) := by
  refine .next (fun e => ?_) hphase fun _ => hrefused
  rw [e, hitems] at ht
  exact List.cons_ne_self x rest ht

theorem moved_of_loadCharWith {P : Params} {s : State} {ch : Int} {rest : List LoadItem} (hload : s.phase = .loading)
    (hrefused : s.refused = none) (hitems : s.load = .char ch :: rest) : ∃ o, Moved s (loadCharWith P ch rest s) o := by
  have hphase : s.phase ≠ .faulted := by simp [hload]
  rcases loadCharWith_cases P ch rest s with
    ⟨-, e⟩ | ⟨-, -, e⟩ | ⟨-, -, -, e⟩ | ⟨-, -, -, -, -, e⟩ | ⟨-, -, -, -, -, e⟩ <;> rw [e]
  · exact ⟨_, moved_of_load hitems rfl hphase hrefused⟩
  · exact ⟨_, .refuse _ hload hrefused⟩
  · exact ⟨_, .refuse _ hload hrefused⟩
  · exact ⟨_, moved_of_load hitems rfl hphase hrefused⟩
  · exact ⟨_, .fault _ hphase⟩

theorem moved_of_loadStepWith {P : Params} {s t : State} (hload : s.phase = .loading) (hitems : s.load ≠ [])
    (h : loadStepWith P s = .next t) : ∃ o, Moved s t o := by
  obtain ⟨hrefused, ⟨hempty, -⟩ | ⟨ch, rest, hch, rfl⟩ | ⟨rest, -, -, rfl⟩ | ⟨rest, hend, -, rfl⟩⟩ := loadStepWith_cases h
  · exact absurd hempty hitems
  · exact moved_of_loadCharWith hload hrefused hch
  · exact ⟨_, .refuse _ hload hrefused⟩
  · exact ⟨_, moved_of_load hend rfl (by simp) hrefused⟩

theorem moved_of_execWith {P : Params} {i : Instr} {s t : State} (hrun : s.phase = .running)
    (hheld : ¬(i = .inp ∧ s.nextByte = none ∧ s.inEnded = false)) (h : execWith P i s = .next t) :
    ∃ o, Moved s t o := by
  rcases execWith_cases h with ⟨u, hd, rfl⟩ | ⟨-, rfl⟩ | ⟨-, -, -, rfl⟩ | ⟨hi, hbyte, hended, -⟩
  · obtain ⟨hphase, -, -, hcycles, -⟩ := dispatched_frame hd
    have hrun' : (u.completeCycleWith P).phase = .running := hphase.trans hrun
    have hcount : (u.completeCycleWith P).cycles = s.cycles + 1 := congrArg (· + 1) hcycles
    refine ⟨_, .next (fun e => ?_) (by rw [hrun']; decide) (fun h => by rw [hrun'] at h; cases h)⟩
    rw [e] at hcount
    omega
  · exact ⟨_, .next (fun e => by simpa [hrun] using congrArg State.phase e) (by simp) (by simp)⟩
  · exact ⟨_, .fault _ (by simp [hrun])⟩
  · exact absurd ⟨hi, hbyte, hended⟩ hheld

/-- An enabled step that is no hold answers a state it has moved to. -/
theorem stepWith_moved {P : Params} {s : State} (he : s.enabled = true) (hheld : s.heldWith P = false) :
    ∃ t o, stepWith P s = .next t ∧ Moved s t o := by
  cases hphase : s.phase with
  | loading =>
    obtain ⟨hrefused, hitems⟩ : s.refused = none ∧ s.load ≠ [] := by simpa [State.enabled, hphase] using he
    rw [stepWith_of_loading P hphase]
    obtain ⟨t, ht⟩ : ∃ t, loadStepWith P s = .next t := by
      simp only [loadStepWith, hrefused]
      split <;> exact ⟨_, rfl⟩
    obtain ⟨o, hmoved⟩ := moved_of_loadStepWith hphase hitems ht
    exact ⟨t, o, ht, hmoved⟩
  | running =>
    obtain ⟨t, ht⟩ := execWith_answers_next P (s.fetchWith P) s
    have hno : ¬(s.fetchWith P = .inp ∧ s.nextByte = none ∧ s.inEnded = false) := fun hin =>
      absurd ((State.heldWith_iff P s).mpr ⟨hphase, hin⟩) (by simp [hheld])
    obtain ⟨o, hmoved⟩ := moved_of_execWith hphase hno ht
    exact ⟨t, o, stepWith_of_running P hphase ▸ ht, hmoved⟩
  | halted => simp [State.enabled, hphase] at he
  | faulted => simp [State.enabled, hphase] at he

/-- An enabled step leaves the state as it was exactly when it is a hold. -/
theorem heldWith_iff_stepWith_eq_self {P : Params} {s : State} (he : s.enabled = true) :
    s.heldWith P = true ↔ stepWith P s = .next s := by
  refine ⟨stepWith_of_heldWith, fun h => ?_⟩
  by_contra hheld
  obtain ⟨t, o, ht, hmoved⟩ := stepWith_moved he (Bool.not_eq_true _ ▸ hheld)
  exact hmoved.ne (Host.Outcome.next.inj (ht.symm.trans h))

/-- A loading step leaves the state as it was exactly when nothing is refused and `LOAD` has no item. -/
theorem awaitsLoad_iff_stepWith_eq_self (P : Params) {s : State} (hload : s.phase = .loading) :
    s.awaitsLoad = true ↔ stepWith P s = .next s := by
  refine ⟨stepWith_of_awaitsLoad P hload, fun h => ?_⟩
  rw [stepWith_of_loading P hload] at h
  refine (State.awaitsLoad_iff hload).mpr ⟨(loadStepWith_cases h).1, ?_⟩
  by_contra hitems
  obtain ⟨o, hmoved⟩ := moved_of_loadStepWith hload hitems h
  exact hmoved.ne rfl

/-! ### Which outcome a step has -/

theorem State.enabled_of_heldWith {P : Params} {s : State} (h : s.heldWith P = true) : s.enabled = true :=
  State.enabled_of_running ((State.heldWith_iff P s).mp h).1

/-- A step has no outcome where it is not enabled, is a hold where In waits, and has the outcome of its move otherwise. -/
theorem outcomeWith_cases (P : Params) (s : State) :
    (s.enabled = false ∧ outcomeWith P s = none) ∨
    (s.heldWith P = true ∧ outcomeWith P s = some .hold) ∨
    (∃ t o, stepWith P s = .next t ∧ Moved s t o ∧ outcomeWith P s = some o) := by
  cases he : s.enabled with
  | false => exact .inl ⟨rfl, by simp [outcomeWith, he]⟩
  | true =>
    refine .inr ?_
    cases hheld : s.heldWith P with
    | true => exact .inl ⟨rfl, by simp [outcomeWith, he, hheld]⟩
    | false =>
      obtain ⟨t, o, ht, hmoved⟩ := stepWith_moved he hheld
      exact .inr ⟨t, o, ht, hmoved, by simp [outcomeWith, he, hheld, ht, hmoved.ofNext_eq]⟩

theorem outcomeWith_eq_none_iff (P : Params) (s : State) : outcomeWith P s = none ↔ s.enabled = false := by
  rcases outcomeWith_cases P s with ⟨he, ho⟩ | ⟨hheld, ho⟩ | ⟨t, o, ht, hmoved, ho⟩
  · simp [he, ho]
  · simp [State.enabled_of_heldWith hheld, ho]
  · have he : s.enabled ≠ false := fun he => hmoved.ne (stepWith_eq_self_of_not_enabled he ht)
    simp [he, ho]

theorem outcomeWith_eq_hold_iff (P : Params) (s : State) : outcomeWith P s = some .hold ↔ s.heldWith P = true := by
  constructor
  · intro h
    rcases outcomeWith_cases P s with ⟨-, ho⟩ | ⟨hheld, -⟩ | ⟨t, o, -, hmoved, ho⟩
    · simp [ho] at h
    · exact hheld
    · cases Option.some.inj (ho.symm.trans h)
      cases hmoved
  · intro hheld
    simp [outcomeWith, State.enabled_of_heldWith hheld, hheld]

/-- Every outcome but a hold is that of a move. -/
theorem moved_of_outcomeWith {P : Params} {s : State} {o : StepOutcome} (h : outcomeWith P s = some o)
    (hne : o ≠ .hold) : ∃ t, stepWith P s = .next t ∧ Moved s t o := by
  rcases outcomeWith_cases P s with ⟨-, ho⟩ | ⟨-, ho⟩ | ⟨t, o', ht, hmoved, ho⟩
  · cases ho.symm.trans h
  · exact absurd (Option.some.inj (h.symm.trans ho)) hne
  · exact ⟨t, ht, Option.some.inj (ho.symm.trans h) ▸ hmoved⟩

/-- A step that changes the state has the outcome its next state shows. -/
theorem outcomeWith_eq_ofNext {P : Params} {s t : State} (h : stepWith P s = .next t) (hne : t ≠ s) :
    outcomeWith P s = StepOutcome.ofNext t := by
  rcases outcomeWith_cases P s with ⟨he, -⟩ | ⟨hheld, -⟩ | ⟨u, o, hu, hmoved, ho⟩
  · exact absurd (stepWith_eq_self_of_not_enabled he h) hne
  · exact absurd (Host.Outcome.next.inj (h.symm.trans (stepWith_of_heldWith hheld))) hne
  · rw [ho, ← Host.Outcome.next.inj (hu.symm.trans h), hmoved.ofNext_eq]

theorem outcomeWith_eq_fault_iff (P : Params) (s : State) (f : Fault) :
    outcomeWith P s = some (.fault f) ↔ s.phase ≠ .faulted ∧ stepWith P s = .next (s.raiseFault f) := by
  constructor
  · intro h
    obtain ⟨t, ht, hmoved⟩ := moved_of_outcomeWith h (by simp)
    cases hmoved with
    | fault _ hs => exact ⟨hs, ht⟩
  · rintro ⟨hs, ht⟩
    rw [outcomeWith_eq_ofNext ht (State.raiseFault_ne f hs), StepOutcome.ofNext_raiseFault]

theorem outcomeWith_eq_refuse_iff (P : Params) (s : State) (r : RefuseReason) :
    outcomeWith P s = some (.refuse r) ↔
      s.phase = .loading ∧ s.refused = none ∧ stepWith P s = .next (s.refuse r) := by
  constructor
  · intro h
    obtain ⟨t, ht, hmoved⟩ := moved_of_outcomeWith h (by simp)
    cases hmoved with
    | refuse _ hload hrefused => exact ⟨hload, hrefused, ht⟩
  · rintro ⟨hload, hrefused, ht⟩
    rw [outcomeWith_eq_ofNext ht (State.refuse_ne r hrefused), StepOutcome.ofNext_refuse r hload]

theorem outcomeWith_next {P : Params} {s t : State} (h : outcomeWith P s = some (.next t)) :
    stepWith P s = .next t ∧ t ≠ s ∧ t.phase ≠ .faulted := by
  obtain ⟨u, hu, hmoved⟩ := moved_of_outcomeWith h (by simp)
  cases hmoved with
  | next hne hphase => exact ⟨hu, hne, hphase⟩

/-! ### The statements -/

/-- Settles O60: each outcome by its own equivalence. -/
theorem theFourOutcomesOfAStep : Obligations.TheFourOutcomesOfAStep := fun P s =>
  ⟨(outcomeWith_eq_hold_iff P s).trans (State.heldWith_iff P s),
    fun h => stepWith_of_heldWith ((outcomeWith_eq_hold_iff P s).mp h),
    outcomeWith_eq_fault_iff P s,
    outcomeWith_eq_refuse_iff P s,
    fun _ => outcomeWith_next,
    (outcomeWith_eq_none_iff P s).trans s.enabled_eq_false_iff⟩

/-- Settles O36: a running step is enabled, and an enabled one that is no hold moves; so does a loading one that has an
item. -/
theorem aHoldIsExactlyAStepThatChangesNothing : Obligations.AHoldIsExactlyAStepThatChangesNothing := by
  intro s
  rw [step_eq_stepWith]
  exact ⟨fun hrun => heldWith_iff_stepWith_eq_self (State.enabled_of_running hrun),
    fun hload => ⟨awaitsLoad_iff_stepWith_eq_self Config.machine hload, State.heldWith_of_loading Config.machine hload⟩⟩

/-- Settles O54: arm by arm, by the two equations of Laws/Exec. -/
theorem theMachineIsOneInstance : Obligations.TheMachineIsOneInstance :=
  ⟨exec_eq_execWith, step_eq_stepWith, rfl⟩

end Sys2Proof.Machine
end

section
/-!
SUPPORT. The state and its invariant (10_state): canonical memories are known by what they list, the invariant starts and
stays, the phases move as listed.
-/

namespace Sys2Proof.Machine

/-! ### A canonical memory is known by what it lists -/

theorem Memory.lookup_cons (k v : Word) (rest : Memory) (a : Word) :
    Memory.lookup ((k, v) :: rest) a = if a = k then some v else if a < k then none else Memory.lookup rest a := by
  simp only [Memory.lookup, Fin.val_inj, Fin.val_fin_lt]

/-- A canonical memory is sorted by its addresses. -/
theorem Memory.wf_iff_pairwise (m : Memory) : Memory.wf m = true ↔ m.Pairwise (Prod.fst ⁻¹'o (· < ·)) := by
  induction m with
  | nil => simp [Memory.wf]
  | cons cell rest ih =>
    obtain ⟨k, v⟩ := cell
    rw [Memory.wf_cons, List.pairwise_cons, ih]
    rfl

/-- The cells of a canonical memory are the ones looked up in it. -/
theorem Memory.mem_iff_lookup {m : Memory} (hm : Memory.wf m = true) (a v : Word) :
    (a, v) ∈ m ↔ Memory.lookup m a = some v := by
  induction m with
  | nil => simp [Memory.lookup]
  | cons cell rest ih =>
    obtain ⟨k, w⟩ := cell
    obtain ⟨hall, hrest⟩ := (Memory.wf_cons k w rest).mp hm
    rw [List.mem_cons, ih hrest, Prod.mk.injEq, Memory.lookup_cons]
    rcases lt_trichotomy a k with hlt | rfl | hgt
    · have hnone : Memory.lookup rest a = none := Memory.lookup_none_of_allFrom hall (Nat.lt_succ_of_lt hlt)
      simp [hnone, hlt, hlt.ne]
    · have hnone : Memory.lookup rest a = none := Memory.lookup_none_of_allFrom hall (Nat.lt_succ_self _)
      simp [hnone, eq_comm]
    · simp [hgt.ne', hgt.not_gt]

/-- Settles O14: two sorted lists with the same cells are equal. -/
theorem canonicalMemoriesAreExtensional : Obligations.CanonicalMemoriesAreExtensional := by
  intro m m' hm hm' hlookup
  refine ((Memory.wf_iff_pairwise m).mp hm).eq_of_mem_iff ((Memory.wf_iff_pairwise m').mp hm') ?_
  rintro ⟨a, v⟩
  rw [Memory.mem_iff_lookup hm, Memory.mem_iff_lookup hm', hlookup]

/-! ### The invariant, at reset and over a step -/

/-- Settles O43: the step under every choice of the parameters keeps the invariant, so the machine's does. -/
theorem everyStepKeepsTheInvariant : Obligations.EveryStepKeepsTheInvariant :=
  fun s _ hs h => hs.stepWith ((step_eq_stepWith s).symm.trans h)

/-- Nothing is loaded or recorded at reset, so what the invariant says of later phases is vacuous. -/
theorem State.reset_invWith (P : Params) : State.reset.InvWith P where
  memWf := rfl
  lposLe := Nat.zero_le _
  inPosLe := Nat.zero_le _
  faultIff := by simp [State.reset]
  faultKind := by simp [State.reset]
  refusedLoading := .inl rfl
  loadingRegs := fun _ => ⟨rfl, rfl, rfl, rfl⟩
  loadingImage := fun _ _ => ⟨fun h => absurd h (Nat.not_lt_zero _), fun _ => rfl⟩
  loadedLen := by simp [State.reset]
  loadedMem := by simp [State.reset]

/-- Settles O42, field by field. -/
theorem resetMeetsTheInvariant : Obligations.ResetMeetsTheInvariant := State.reset_invWith Config.machine

/-! ### The phases -/

theorem loadStepWith_phase {P : Params} {s t : State} (hload : s.phase = .loading) (h : loadStepWith P s = .next t) :
    t.phase = .loading ∨ t.phase = .running ∨ t.phase = .faulted := by
  obtain ⟨-, ⟨-, rfl⟩ | ⟨ch, rest, -, rfl⟩ | ⟨rest, -, -, rfl⟩ | ⟨rest, -, -, rfl⟩⟩ := loadStepWith_cases h
  · exact .inl hload
  · rcases loadCharWith_cases P ch rest s with
      ⟨-, e⟩ | ⟨-, -, e⟩ | ⟨-, -, -, e⟩ | ⟨-, -, -, -, -, e⟩ | ⟨-, -, -, -, -, e⟩ <;> simp [e, hload]
  · exact .inl hload
  · exact .inr (.inl rfl)

theorem execWith_phase {P : Params} {i : Instr} {s t : State} (hrun : s.phase = .running)
    (h : execWith P i s = .next t) : t.phase = .running ∨ t.phase = .halted ∨ t.phase = .faulted := by
  rcases execWith_cases h with ⟨u, hd, rfl⟩ | ⟨-, rfl⟩ | ⟨-, -, -, rfl⟩ | ⟨-, -, -, rfl⟩
  · obtain ⟨hphase, -⟩ := dispatched_frame hd
    exact .inl (hphase.trans hrun)
  · exact .inr (.inl rfl)
  · exact .inr (.inr rfl)
  · exact .inl hrun

/-- Settles O33: by the phase the step starts in. -/
theorem thePhaseMovesAsListed : Obligations.ThePhaseMovesAsListed := by
  intro s t h
  rw [step_eq_stepWith] at h
  rcases stepWith_cases h with ⟨hload, h⟩ | ⟨hrun, h⟩ | ⟨hhalted, rfl⟩ | ⟨hfaulted, -, rfl⟩
  · simpa [hload] using loadStepWith_phase hload h
  · simpa [hrun] using execWith_phase hrun h
  · simp [hhalted]
  · simp [hfaulted]

end Sys2Proof.Machine
end

section
/-!
SUPPORT. What a running step writes and what it depends on (10_state section 2, R24): each register's writers, and that
the bookkeeping fields do not reach a running step.
-/

namespace Sys2Proof.Machine

/-! ### A meaning from what dispatch does -/

theorem execWith_of_dispatched {P : Params} {i : Instr} {s u : State} (hd : DispatchedWith P i s u) :
    execWith P i s = .next (u.completeCycleWith P) := by
  cases i with
  | inp =>
    obtain ⟨b, hb, hu⟩ := hd
    simp only [execWith, execInWith, hb, hu]
  | halt => exact hd.elim
  | _ => rw [show u = _ from hd]; rfl

theorem execWith_inp_of_exhausted (P : Params) {s : State} (hbyte : s.nextByte = none) (hended : s.inEnded = true) :
    execWith P .inp s = .next (s.raiseFault .inputExhausted) := by
  simp [execWith, execInWith, hbyte, hended]

theorem execWith_inp_of_waiting (P : Params) {s : State} (hbyte : s.nextByte = none) (hended : s.inEnded = false) :
    execWith P .inp s = .next s := by
  simp [execWith, execInWith, hbyte, hended]

end Sys2Proof.Machine

namespace Sys2Proof.Frame

open Sys2Proof.Machine

/-! ### States that differ in the bookkeeping only -/

section
variable {s s' : State} (h : SameMachine s s')
include h

theorem SameMachine.readWith_eq (P : Params) (x : Word) : s'.readWith P x = s.readWith P x := by
  obtain ⟨-, -, -, hmem, -⟩ := h
  rw [State.readWith_eq, State.readWith_eq, hmem]

theorem SameMachine.fetchWith_eq (P : Params) : s'.fetchWith P = s.fetchWith P := by
  have hread := h.readWith_eq P
  obtain ⟨-, hc, -⟩ := h
  rw [State.fetchWith, State.fetchWith, hread, hc]

theorem SameMachine.operandWith_eq (P : Params) : s'.operandWith P = s.operandWith P := by
  obtain ⟨-, -, hd, hmem, -⟩ := h
  rw [State.operandWith_eq, State.operandWith_eq, hmem, hd]

theorem SameMachine.nextByte_eq : s'.nextByte = s.nextByte := by
  obtain ⟨-, -, -, -, hstream, hpos, -⟩ := h
  rw [State.nextByte, State.nextByte, hstream, hpos]

theorem SameMachine.inEnded_eq : s'.inEnded = s.inEnded := by
  obtain ⟨-, -, -, -, -, -, hended, -⟩ := h
  exact hended

theorem SameMachine.setA (v : Word) : SameMachine (s.setA v) (s'.setA v) := by
  obtain ⟨-, hrest⟩ := h
  exact ⟨rfl, hrest⟩

theorem SameMachine.setC (v : Word) : SameMachine (s.setC v) (s'.setC v) := by
  obtain ⟨ha, -, hrest⟩ := h
  exact ⟨ha, rfl, hrest⟩

theorem SameMachine.setD (v : Word) : SameMachine (s.setD v) (s'.setD v) := by
  obtain ⟨ha, hc, -, hrest⟩ := h
  exact ⟨ha, hc, rfl, hrest⟩

theorem SameMachine.storeBoth (v : Word) : SameMachine (s.storeBoth v) (s'.storeBoth v) := by
  obtain ⟨-, hc, hd, hmem, hrest⟩ := h
  exact ⟨rfl, hc, hd, by rw [State.storeBoth_mem, State.storeBoth_mem, hmem, hd], hrest⟩

theorem SameMachine.dropByte : SameMachine s.dropByte s'.dropByte := by
  obtain ⟨ha, hc, hd, hmem, hstream, hpos, hrest⟩ := h
  exact ⟨ha, hc, hd, hmem, hstream, congrArg (· + 1) hpos, hrest⟩

theorem SameMachine.emit (x : OutSym) : SameMachine (s.emit x) (s'.emit x) := by
  obtain ⟨ha, hc, hd, hmem, hstream, hpos, hended, hout⟩ := h
  exact ⟨ha, hc, hd, hmem, hstream, hpos, hended, congrArg (· ++ [x]) hout⟩

theorem SameMachine.completeCycleWith (P : Params) :
    SameMachine (s.completeCycleWith P) (s'.completeCycleWith P) := by
  have hread := h.readWith_eq P
  obtain ⟨ha, hc, hd, hmem, hrest⟩ := h
  refine ⟨ha, congrArg Alu.inc hc, congrArg Alu.inc hd, ?_, hrest⟩
  rw [State.completeCycleWith_mem, State.completeCycleWith_mem, hread, hmem, hc]

/-- Dispatch takes two such states to two such states. -/
theorem SameMachine.dispatched {P : Params} {i : Instr} {u : State} (hd : DispatchedWith P i s u) :
    ∃ u', DispatchedWith P i s' u' ∧ SameMachine u u' := by
  have ha : s'.a = s.a := h.1
  have hop := h.operandWith_eq P
  cases i with
  | jmp => exact ⟨_, rfl, by rw [show u = _ from hd, hop]; exact h.setC _⟩
  | out => exact ⟨_, rfl, by rw [show u = _ from hd, ha]; exact h.emit _⟩
  | inp =>
    obtain ⟨b, hb, hu⟩ := hd
    exact ⟨_, ⟨b, h.nextByte_eq.trans hb, rfl⟩, by rw [hu]; exact h.dropByte.setA _⟩
  | rot => exact ⟨_, rfl, by rw [show u = _ from hd, hop]; exact h.storeBoth _⟩
  | setD => exact ⟨_, rfl, by rw [show u = _ from hd, hop]; exact h.setD _⟩
  | crz => exact ⟨_, rfl, by rw [show u = _ from hd, hop, ha]; exact h.storeBoth _⟩
  | nop => exact ⟨_, rfl, by rw [show u = _ from hd]; exact h⟩
  | halt => exact hd.elim
  | nopx r => exact ⟨_, rfl, by rw [show u = _ from hd]; exact h⟩

/-- From two running states that differ in the bookkeeping only, a meaning leads to two such states, in the same phase
and with both counts moved alike. -/
theorem SameMachine.execWith {P : Params} {i : Instr} {t : State}
    (hrun : s.phase = .running) (hrun' : s'.phase = .running) (ht : execWith P i s = .next t) :
    ∃ t', execWith P i s' = .next t' ∧ SameMachine t t' ∧ t'.phase = t.phase ∧
      t'.cycles + s.cycles = t.cycles + s'.cycles := by
  have hphase : s'.phase = s.phase := hrun'.trans hrun.symm
  rcases execWith_cases ht with ⟨u, hd, rfl⟩ | ⟨rfl, rfl⟩ | ⟨rfl, hbyte, hended, rfl⟩ | ⟨rfl, hbyte, hended, rfl⟩
  · obtain ⟨u', hd', hu⟩ := h.dispatched hd
    obtain ⟨hp, -, -, hcycles, -⟩ := dispatched_frame hd
    obtain ⟨hp', -, -, hcycles', -⟩ := dispatched_frame hd'
    refine ⟨_, execWith_of_dispatched hd', hu.completeCycleWith P, hp'.trans (hphase.trans hp.symm), ?_⟩
    rw [State.completeCycleWith_cycles, State.completeCycleWith_cycles, hcycles, hcycles']
    omega
  · exact ⟨_, rfl, h, rfl, Nat.add_comm _ _⟩
  · exact ⟨_, execWith_inp_of_exhausted P (h.nextByte_eq.trans hbyte) (h.inEnded_eq.trans hended), h, rfl,
      Nat.add_comm _ _⟩
  · exact ⟨_, execWith_inp_of_waiting P (h.nextByte_eq.trans hbyte) (h.inEnded_eq.trans hended), h, hphase,
      Nat.add_comm _ _⟩

end

end Sys2Proof.Frame

namespace Sys2Proof.Machine

open Sys2Proof.Frame

/-- Settles O37: both states fetch the same instruction, and its meaning takes them to states that agree alike. -/
theorem runningStepsIgnoreTheBookkeeping : Obligations.RunningStepsIgnoreTheBookkeeping := by
  intro s s' hrun hrun' hsame
  rw [step_eq_stepWith, step_eq_stepWith, stepWith_of_running _ hrun, stepWith_of_running _ hrun', hsame.fetchWith_eq]
  obtain ⟨t, ht⟩ := execWith_answers_next Config.machine (s.fetchWith Config.machine) s
  obtain ⟨t', ht', hagree⟩ := hsame.execWith hrun hrun' ht
  exact ⟨t, t', ht, ht', hagree⟩

/-! ### The writers of each register -/

/-- A cycle that does not complete, End's or a faulting or waiting In's, leaves everything an instruction can act on. -/
theorem execWith_completes_or_sameMachine {P : Params} {i : Instr} {s t : State} (h : execWith P i s = .next t) :
    (∃ u, DispatchedWith P i s u ∧ t = u.completeCycleWith P) ∨ SameMachine s t := by
  rcases execWith_cases h with hcompletes | ⟨-, rfl⟩ | ⟨-, -, -, rfl⟩ | ⟨-, -, -, rfl⟩
  · exact .inl hcompletes
  all_goals exact .inr ⟨rfl, rfl, rfl, rfl, rfl, rfl, rfl, rfl⟩

theorem dispatched_a {P : Params} {i : Instr} {s u : State} (h : DispatchedWith P i s u) :
    u.a = s.a ∨ i = .inp ∨ i = .rot ∨ i = .crz := by
  rcases dispatched_a_mem h with ⟨ha, -⟩ | ⟨hi, -⟩ | ⟨hi, -⟩
  · exact .inl ha
  · exact .inr (.inr hi)
  · exact .inr (.inl hi)

/-- Settles O28: a completed cycle moves C and D by one from where dispatch left them; any other moves no register. -/
theorem onlyTheListedInstructionsWriteEachRegister : Obligations.OnlyTheListedInstructionsWriteEachRegister := by
  intro s t hrun h
  rw [step_of_running hrun, exec_eq_execWith] at h
  rcases execWith_completes_or_sameMachine h with ⟨u, hd, rfl⟩ | ⟨ha, hc, hd, -⟩
  · refine ⟨(dispatched_a hd).resolve_left, fun hjmp => .inr ?_, fun hsetD => .inr ?_⟩
    · rw [State.completeCycleWith_c, dispatched_c hd, if_neg hjmp, Alu.inc_val]
    · rw [State.completeCycleWith_d, dispatched_d hd, if_neg hsetD, Alu.inc_val]
  · exact ⟨fun hne => absurd ha hne, fun _ => .inl hc, fun _ => .inl hd⟩

end Sys2Proof.Machine
end

section
/-!
SUPPORT. What a running step writes to memory (20_memory section 2, R43): the cells that dispatch and the write-back of a
completed cycle can change.
-/

namespace Sys2Proof.Machine

open Sys2Proof.Frame

/-- The one cell a write can make read differently. -/
theorem Memory.eq_of_readWith_write_ne {init : Word → Word} {m : Memory} {a v x : Word}
    (h : Memory.readWith init (Memory.write m a v) x ≠ Memory.readWith init m x) : x = a :=
  Decidable.byContradiction fun hne => h (Memory.readWith_write_other init m a v x hne)

/-- The common tail of a cycle changes only the cell at the C it starts from, the one before the C it leaves. -/
theorem State.eq_pred_of_completeCycleWith_read_ne {P : Params} {u : State} {x : Word}
    (h : (u.completeCycleWith P).readWith P x ≠ u.readWith P x) : x = Alu.pred (u.completeCycleWith P).c := by
  rw [State.readWith_eq, State.readWith_eq, State.completeCycleWith_mem] at h
  rw [State.completeCycleWith_c, Alu.pred_inc]
  exact Memory.eq_of_readWith_write_ne h

/-- Dispatch changes no cell but the one at D, and that under Rot and Crz only. -/
theorem dispatched_read_ne {P : Params} {i : Instr} {s u : State} {x : Word} (hd : DispatchedWith P i s u)
    (h : u.readWith P x ≠ s.readWith P x) : x = s.d ∧ (i = .rot ∨ i = .crz) := by
  rw [State.readWith_eq, State.readWith_eq] at h
  rcases dispatched_a_mem hd with ⟨-, hmem⟩ | ⟨hi, hmem⟩ | ⟨-, hmem⟩ <;> rw [hmem] at h
  · exact absurd rfl h
  · exact ⟨Memory.eq_of_readWith_write_ne h, hi⟩
  · exact absurd rfl h

/-- The cells a meaning can change, in the instance `P`. -/
theorem execWith_read_ne {P : Params} {i : Instr} {s t : State} {x : Word} (h : execWith P i s = .next t)
    (hx : t.readWith P x ≠ s.readWith P x) : x = Alu.pred t.c ∨ (x = s.d ∧ (i = .rot ∨ i = .crz)) := by
  rcases execWith_completes_or_sameMachine h with ⟨u, hd, rfl⟩ | hsame
  · by_cases htail : (u.completeCycleWith P).readWith P x = u.readWith P x
    · exact .inr (dispatched_read_ne hd (htail ▸ hx))
    · exact .inl (State.eq_pred_of_completeCycleWith_read_ne htail)
  · exact absurd (hsame.readWith_eq P x) hx

/-- Settles O29: a running step is the meaning of the fetched instruction, in the machine's instance. -/
theorem onlyTheListedWritersChangeMemory : Obligations.OnlyTheListedWritersChangeMemory := by
  intro s t hrun h x hx
  rw [step_of_running hrun, exec_eq_execWith] at h
  exact execWith_read_ne h hx

end Sys2Proof.Machine
end

section
/-!
SUPPORT. Decoding and encoding (30_encoding): the residue under each reading of the decode sum, the code of R56 as its
inverse, the residue map, and the word that `withFetchWord` places.
-/

namespace Sys2Proof

/-! ### The residue under each reading of the decode sum -/

theorem residue_eq_residueWith_true (v p : Word) : residue v p = residueWith true v p := rfl

theorem residueWith_true_val (v p : Word) : (residueWith true v p).val = (v.val + p.val) % 59049 % 94 := rfl

theorem residueWith_false_val (v p : Word) : (residueWith false v p).val = (v.val + p.val) % 94 := rfl

/-- Up to a sum of 59048 nothing wraps, so the reading does not matter. -/
theorem residueWith_val_of_sum_lt (wrap : Bool) {v p : Word} (h : v.val + p.val < 59049) :
    (residueWith wrap v p).val = (v.val + p.val) % 94 := by
  cases wrap with
  | false => exact residueWith_false_val v p
  | true => rw [residueWith_true_val, Nat.mod_eq_of_lt h]

/-- From 59049 on the sum of two Words wraps exactly once. -/
theorem residueWith_true_val_of_le_sum {v p : Word} (h : 59049 ≤ v.val + p.val) :
    (residueWith true v p).val = (v.val + p.val - 59049) % 94 := by
  have hv := v.isLt
  have hp := p.isLt
  have hlt : v.val + p.val - 59049 < 59049 := by omega
  rw [residueWith_true_val, Nat.mod_eq_sub_mod h, Nat.mod_eq_of_lt hlt]

/-- Settles O6: one wrap takes 59049 off the sum, and 59049 is 17 modulo 94. -/
theorem theTwoReadingsOfTheDecodeSum : Obligations.TheTwoReadingsOfTheDecodeSum := by
  intro v p
  refine ⟨residue_eq_residueWith_true v p, residueWith_false_val v p, fun h => ?_, fun h => ?_⟩
  · have hlt : v.val + p.val < 59049 := Nat.lt_succ_of_le h
    exact Fin.ext ((residueWith_val_of_sum_lt true hlt).trans (residueWith_val_of_sum_lt false hlt).symm)
  · have hwrap := residueWith_true_val_of_le_sum h
    refine ⟨hwrap, ?_⟩
    rw [hwrap, residueWith_false_val]
    omega

/-! ### The code of R56 -/

theorem code_mem_printable (r : Residue) (p : Word) : 33 ≤ code r p ∧ code r p ≤ 126 := by
  dsimp only [code]
  split <;> omega

theorem code_add_mod (r : Residue) (p : Word) : (code r p + p.val) % 94 = r.val := by
  have hr := r.isLt
  dsimp only [code]
  split <;> omega

/-- `code` is the only number of 33 to 126 with its sum: those are 94 numbers in a row. -/
theorem eq_code_iff_add_mod {r : Residue} {p : Word} {x : Nat} (h33 : 33 ≤ x) (h126 : x ≤ 126) :
    x = code r p ↔ (x + p.val) % 94 = r.val := by
  have hcode := code_add_mod r p
  obtain ⟨hlow, hhigh⟩ := code_mem_printable r p
  omega

/-- R56's congruence, as a remainder of the decode sum. -/
theorem modEq_sub_iff_add_mod (r : Residue) (p : Word) (x : Nat) :
    (x : Int) ≡ (r.val : Int) - (p.val : Int) [ZMOD 94] ↔ (x + p.val) % 94 = r.val := by
  have hr := r.isLt
  unfold Int.ModEq
  omega

theorem code_word_val (r : Residue) (p : Word) : (Word.ofNat (code r p)).val = code r p := by
  obtain ⟨-, hhigh⟩ := code_mem_printable r p
  exact Machine.Word.val_ofNat_of_lt (by omega)

/-- Where the decode sum does not wrap, the cell holding `code` has the residue. -/
theorem residueWith_code {wrap : Bool} {r : Residue} {p : Word} (h : wrap = false ∨ code r p + p.val < 59049) :
    residueWith wrap (Word.ofNat (code r p)) p = r := by
  have hval : (residueWith wrap (Word.ofNat (code r p)) p).val = (code r p + p.val) % 94 := by
    rcases h with rfl | hlt
    · rw [residueWith_false_val, code_word_val]
    · rw [residueWith_val_of_sum_lt wrap (by rwa [code_word_val]), code_word_val]
  exact Fin.ext (hval.trans (code_add_mod r p))

/-- A residue is known by its number, so a condition on it is a congruence of the sum. -/
theorem residue_eq_iff_modEq {q r : Residue} {n : Nat} (hq : q.val = n % 94) : q = r ↔ n ≡ r.val [MOD 94] := by
  rw [← Fin.val_inj, hq, Nat.ModEq, Nat.mod_eq_of_lt r.isLt]

/-- Settles O10: below the wrap each congruence is the remainder of the decode sum; above it the residue is read off
under each reading. -/
theorem codeIsThePrintableInverseOfTheResidue : Obligations.CodeIsThePrintableInverseOfTheResidue := by
  intro r p
  obtain ⟨hlow, hhigh⟩ := code_mem_printable r p
  refine ⟨fun v h => ?_, hlow, hhigh, fun x h33 h126 => ?_, fun h => ?_, fun v h => ⟨?_, ?_⟩⟩
  · rw [modEq_sub_iff_add_mod, ← Fin.val_inj, residue_eq_residueWith_true,
      residueWith_val_of_sum_lt true (Nat.lt_succ_of_le h)]
  · rw [modEq_sub_iff_add_mod, eq_code_iff_add_mod h33 h126]
  · exact residueWith_code (.inr (Nat.lt_succ_of_le h))
  · exact residue_eq_iff_modEq (residueWith_true_val_of_le_sum h)
  · exact residue_eq_iff_modEq (residueWith_false_val v p)

/-! ### The residue map -/

theorem decodeResidue_residueOf {i : Instr} (hi : i.wellFormed = true) : decodeResidue (residueOf i) = i := by
  cases i with
  | jmp => exact Laws.ResidueMap.jmp hi
  | out => exact Laws.ResidueMap.out hi
  | inp => exact Laws.ResidueMap.inp hi
  | rot => exact Laws.ResidueMap.rot hi
  | setD => exact Laws.ResidueMap.setD hi
  | crz => exact Laws.ResidueMap.crz hi
  | nop => exact Laws.ResidueMap.nop hi
  | halt => exact Laws.ResidueMap.halt hi
  | nopx r => exact Laws.ResidueMap.nopx r hi

/-- A cell whose residue is that of a well-formed instruction decodes to it. -/
theorem decodeWith_of_residueWith {wrap : Bool} {v p : Word} {i : Instr} (hi : i.wellFormed = true)
    (h : residueWith wrap v p = residueOf i) : decodeWith wrap v p = i := by
  rw [decodeWith, h, decodeResidue_residueOf hi]

theorem decode_of_residue {v p : Word} {i : Instr} (hi : i.wellFormed = true) (h : residue v p = residueOf i) :
    decode v p = i :=
  decodeWith_of_residueWith hi h

theorem nopx_wellFormed_iff (r : Residue) :
    (Instr.nopx r).wellFormed = true ↔ r.val ∉ [4, 5, 23, 39, 40, 62, 68, 81] := by
  simp [Instr.wellFormed, legalResidues, Fin.ext_iff]

theorem exec_nopx_eq_exec_nop (r : Residue) (s : Machine.State) :
    Machine.exec (.nopx r) s = Machine.exec .nop s := rfl

/-- Settles O7: each clause gives the residue of a well-formed instruction, the last one that of NOPX. -/
theorem theResidueSelectsTheOperation : Obligations.TheResidueSelectsTheOperation := by
  intro v p s
  refine ⟨?jmp, ?out, ?inp, ?rot, ?setD, ?crz, ?nop, ?halt, fun hunassigned => ?nopx⟩
  case nopx =>
    have hdecode : decode v p = .nopx (residue v p) :=
      decode_of_residue ((nopx_wellFormed_iff _).mpr hunassigned) rfl
    exact ⟨hdecode, by rw [hdecode, exec_nopx_eq_exec_nop]⟩
  all_goals exact fun hkey => decode_of_residue rfl (Fin.ext hkey)

/-! ### Encoding -/

/-- The two forms of the encoder: where `code` would wrap, the word placed wraps to the residue itself. -/
theorem residueWith_encodeWith (wrap : Bool) (i : Instr) (p : Word) :
    residueWith wrap (encodeWith wrap i p) p = residueOf i := by
  unfold encodeWith
  split
  · next h => exact residueWith_code h
  · next h =>
    obtain ⟨hwrap, hsum⟩ := not_or.mp h
    rw [Bool.not_eq_false] at hwrap
    subst hwrap
    obtain ⟨-, hhigh⟩ := code_mem_printable (residueOf i) p
    have hr := (residueOf i).isLt
    have hp := p.isLt
    have hword : (Word.ofNat ((residueOf i).val + (59049 - p.val))).val = (residueOf i).val + (59049 - p.val) :=
      Machine.Word.val_ofNat_of_lt (by omega)
    refine Fin.ext ?_
    rw [residueWith_true_val, hword]
    omega

/-- Settles O55: the encoding has the instruction's residue. -/
theorem eitherReadingDecodesItsEncoding : Obligations.EitherReadingDecodesItsEncoding :=
  fun wrap i hi p => decodeWith_of_residueWith hi (residueWith_encodeWith wrap i p)

/-- Settles O8: the machine's reading is one of the two. -/
theorem decodeOfEncodeIsTheInstruction : Obligations.DecodeOfEncodeIsTheInstruction :=
  eitherReadingDecodesItsEncoding Config.decodeWrap

/-- Settles O11, by evaluating the decoder. -/
theorem theSpecsCellsDecodeAsListed : Obligations.TheSpecsCellsDecodeAsListed := by
  unfold Obligations.TheSpecsCellsDecodeAsListed
  decide

/-! ### The placed word -/

namespace Machine

/-- A Word is always placed: the cell at C is written and the machine runs. -/
theorem State.withFetchWord_of_lt (s : State) (nbits : Nat) {w : Nat} (hw : w < 59049) :
    s.withFetchWord nbits w = (s.write s.c (Word.ofNat (w + (59049 - s.c.val)))).enterRunning :=
  if_pos hw

/-- Only a Word is a table word, and it is decoded as the cell value at address 0. -/
theorem decodeTableWord_eq_some_iff {nbits w : Nat} {i : Instr} :
    decodeTableWord nbits w = some i ↔ w < 59049 ∧ decode (Word.ofNat w) 0 = i := by
  simp [decodeTableWord]

/-- The Word placed at address `c` sums with it to `w`, as `w` does at address 0. -/
theorem decode_placed (w : Nat) (c : Word) :
    decode (Word.ofNat (w + (59049 - c.val))) c = decode (Word.ofNat w) 0 := by
  have hc := c.isLt
  have hsum : ((w + (59049 - c.val)) % 59049 + c.val) % 59049 = (w % 59049 + 0) % 59049 := by omega
  have hres : residue (Word.ofNat (w + (59049 - c.val))) c = residue (Word.ofNat w) 0 :=
    Fin.ext (congrArg (· % 94) hsum)
  rw [decode_eq, decode_eq, hres]

/-- Settles O13: the running machine fetches the cell at C, which holds the placed Word. -/
theorem thePlacedWordIsFetchedAndRun : Obligations.ThePlacedWordIsFetchedAndRun := by
  intro s nbits w i hi
  obtain ⟨hw, hi⟩ := decodeTableWord_eq_some_iff.mp hi
  rw [State.withFetchWord_of_lt s nbits hw]
  refine ⟨?_, rfl⟩
  rw [step_of_running (State.enterRunning_phase _), State.fetch_eq, State.read_eq, State.enterRunning_mem,
    State.enterRunning_c, State.write_mem, State.write_c, Memory.read_write_same, decode_placed, hi]

end Machine

end Sys2Proof
end

section
/-!
SUPPORT. The Ternary Word ALU (40_ternary_alu): Words and lists of ten digits, combine and rotate as operations on the
digit list, and ternary text.
-/

namespace Sys2Proof.Alu

open Sys2Proof.Frame

/-! ### Digit lists -/

theorem digit_val (w : Word) (k : Nat) : (digit w k).val = trit w k := rfl

theorem digitsOf_getElem? {n k : Nat} (w : Nat) (hk : k < n) :
    (digitsOf n w)[k]? = some ⟨w / 3 ^ k % 3, Nat.mod_lt _ (by decide)⟩ := by
  induction n generalizing k w with
  | zero => omega
  | succ n ih =>
    cases k with
    | zero => simp [digitsOf]
    | succ k => simp [digitsOf, ih (w / 3) (Nat.lt_of_succ_lt_succ hk), Nat.div_div_eq_div_mul, pow_succ']

theorem digits_getElem? (w : Word) {k : Nat} (hk : k < 10) : (digits w)[k]? = some (digit w k) :=
  digitsOf_getElem? w.val hk

theorem undigitsNat_digitsOf {n w : Nat} (h : w < 3 ^ n) : undigitsNat (digitsOf n w) = w := by
  induction n generalizing w with
  | zero => exact (Nat.lt_one_iff.mp h).symm
  | succ n ih =>
    have hquot : w / 3 < 3 ^ n := by omega
    simp only [digitsOf, undigitsNat, ih hquot]
    omega

theorem digitsOf_undigitsNat (ds : List Trit) : digitsOf ds.length (undigitsNat ds) = ds := by
  induction ds with
  | nil => rfl
  | cons d ds ih =>
    have hd := d.isLt
    have hmod : (d.val + 3 * undigitsNat ds) % 3 = d.val := by omega
    have hdiv : (d.val + 3 * undigitsNat ds) / 3 = undigitsNat ds := by omega
    simp only [undigitsNat, List.length_cons, digitsOf, hmod, hdiv, ih]

theorem undigitsNat_concat (ds : List Trit) (d : Trit) :
    undigitsNat (ds ++ [d]) = undigitsNat ds + d.val * 3 ^ ds.length := by
  induction ds with
  | nil => simp [undigitsNat]
  | cons e ds ih =>
    simp only [List.cons_append, undigitsNat, ih, List.length_cons, pow_succ]
    ring

@[simp] theorem undigits_digits (w : Word) : undigits (digits w) = w :=
  Fin.ext ((undigits_val (digits_length w)).trans (undigitsNat_digitsOf w.isLt))

theorem digits_undigits {ds : List Trit} (h : ds.length = 10) : digits (undigits ds) = ds := by
  rw [digits, undigits_val h, ← h, digitsOf_undigitsNat]

/-- A Word is known by its digits. -/
theorem digits_injective : Function.Injective digits :=
  Function.LeftInverse.injective undigits_digits

/-- Settles O3: the two directions, and the digit at each place of the list. -/
theorem digitsAndUndigitsAreInverse : Obligations.DigitsAndUndigitsAreInverse := by
  refine ⟨fun w => ⟨digits_length w, undigits_digits w, fun k d hd => ?_⟩, fun ds => digits_undigits⟩
  have hk : k < 10 := digits_length w ▸ (List.getElem?_eq_some_iff.mp hd).1
  rw [digits_getElem? w hk, Option.some_inj] at hd
  rw [← hd, digit_val]

/-! ### Combine: the table, digit by digit -/

theorem digits_combine (a b : Word) : digits (combine a b) = List.zipWith crz1 (digits a) (digits b) :=
  digits_undigits (by simp)

theorem digit_combine (a b : Word) {k : Nat} (hk : k < 10) :
    digit (combine a b) k = crz1 (digit a k) (digit b k) := by
  have h : (digits (combine a b))[k]? = some (crz1 (digit a k) (digit b k)) := by
    simp [digits_combine, List.getElem?_zipWith, digits_getElem? _ hk]
  rwa [digits_getElem? _ hk, Option.some_inj] at h

theorem crz1_val : ∀ x y : Trit, (crz1 x y).val = grid x.val y.val := by decide

/-- Settles O1: the table's nine entries, read at each digit of the combine. -/
theorem combineAppliesTheGridToEachDigitPair : Obligations.CombineAppliesTheGridToEachDigitPair := by
  refine ⟨crz1_val, fun a b k hk => ?_⟩
  rw [← digit_val, digit_combine a b hk, crz1_val, digit_val, digit_val]

/-! ### Rotate: the digit list turned by one -/

/-- Least significant first, the last digit moves to the end of the list. -/
theorem digits_rotate (w : Word) : digits (rotate w) = (digits w).rotate 1 := by
  have hw := w.isLt
  have hquot : undigitsNat (digitsOf 9 (w.val / 3)) = w.val / 3 := undigitsNat_digitsOf (by omega)
  have hword : rotate w = undigits (digitsOf 9 (w.val / 3) ++ [digit w 0]) := by
    refine Fin.ext ?_
    rw [undigits_val (by simp), undigitsNat_concat, hquot, digitsOf_length, rotate_val, digit_val]
    simp [trit]
  have hlist : (digits w).rotate 1 = digitsOf 9 (w.val / 3) ++ [digit w 0] := by
    simp [digits, digitsOf, digit]
  rw [hword, hlist, digits_undigits (by simp)]

theorem digits_rotate_iterate (n : Nat) (w : Word) : digits (rotate^[n] w) = (digits w).rotate n := by
  induction n with
  | zero => simp
  | succ n ih => rw [Function.iterate_succ_apply', digits_rotate, ih, List.rotate_rotate]

theorem digit_rotate (w : Word) {k : Nat} (hk : k < 10) : digit (rotate w) k = digit w ((k + 1) % 10) := by
  have hk' : (k + 1) % 10 < 10 := Nat.mod_lt _ (by decide)
  have h : (digits (rotate w))[k]? = some (digit w ((k + 1) % 10)) := by
    rw [digits_rotate, List.getElem?_rotate (by simpa using hk), digits_length, digits_getElem? w hk']
  rwa [digits_getElem? _ hk, Option.some_inj] at h

/-- Ten turns of a ten-digit list are none. -/
theorem rotate_iterate_ten (w : Word) : rotate^[10] w = w :=
  digits_injective (by rw [digits_rotate_iterate, ← digits_length w, List.rotate_length])

/-- Nine rotations undo one, on either side. -/
theorem rotate_bijective : Function.Bijective rotate :=
  Function.bijective_iff_has_inverse.mpr
    ⟨rotate^[9], fun w => (Function.iterate_succ_apply rotate 9 w).symm.trans (rotate_iterate_ten w),
      fun w => (Function.iterate_succ_apply' rotate 9 w).symm.trans (rotate_iterate_ten w)⟩

/-- Settles O2: the digits and the ten-fold identity are those of a list turned by one. -/
theorem rotateMovesTheLastDigitToTheFront : Obligations.RotateMovesTheLastDigitToTheFront := by
  refine ⟨fun w => ⟨rotate_val w, fun k hk => ?_, ?_, rotate_iterate_ten w⟩, rotate_bijective⟩
  · have hnext : (k + 1) % 10 = k + 1 := Nat.mod_eq_of_lt (by omega)
    rw [← digit_val, digit_rotate w (by omega), hnext, digit_val]
  · exact congrArg Fin.val (digit_rotate w (k := 9) (by decide))

/-- Settles O5: turning two lists of one length and pairing them commute. -/
theorem rotateCommutesWithCombine : Obligations.RotateCommutesWithCombine := by
  intro a b
  refine digits_injective ?_
  have hlength : (digits a).length = (digits b).length := by rw [digits_length, digits_length]
  simp only [digits_rotate, digits_combine, List.zipWith_rotate_distrib _ _ _ _ hlength]

/-! ### Ternary text -/

theorem charDigit_eq_some_iff (ch : Char) (d : Trit) : charDigit ch = some d ↔ ch = digitChar d := by
  constructor
  · intro h
    unfold charDigit at h
    split_ifs at h with h0 h1 h2 <;> cases h <;> assumption
  · rintro rfl
    fin_cases d <;> rfl

theorem mem_range_digitChar_iff (ch : Char) : ch ∈ Set.range digitChar ↔ ch = '0' ∨ ch = '1' ∨ ch = '2' := by
  simp [Fin.exists_fin_succ, digitChar, eq_comm]

theorem textDigits_eq_some_iff (text : List Char) (ds : List Trit) :
    textDigits text = some ds ↔ text = ds.map digitChar := by
  induction text generalizing ds with
  | nil => cases ds <;> simp [textDigits]
  | cons ch rest ih =>
    constructor
    · intro h
      unfold textDigits at h
      split at h
      · next d ds' hd hrest =>
        cases h
        rw [(charDigit_eq_some_iff ch d).mp hd, (ih ds').mp hrest, List.map_cons]
      · cases h
    · intro h
      obtain ⟨d, ds', rfl, rfl, hrest⟩ := List.map_eq_cons_iff.mp h.symm
      simp [textDigits, (charDigit_eq_some_iff _ d).mpr rfl, (ih ds').mpr hrest.symm]

@[simp] theorem render_length (w : Word) : (render w).length = 10 := by simp [render]

theorem render_getElem? (w : Word) {j : Nat} (hj : j < 10) :
    (render w)[j]? = some (digitChar (digit w (9 - j))) := by
  rw [render, List.getElem?_map, List.getElem?_reverse (by simpa using hj), digits_length,
    digits_getElem? w (by omega), Option.map_some]

theorem render_undigits_reverse {ds : List Trit} (h : ds.length = 10) :
    render (undigits ds.reverse) = ds.map digitChar := by
  rw [render, digits_undigits (by simpa using h), List.reverse_reverse]

/-- The texts of Words are those of ten ternary digit characters. -/
theorem exists_render_eq_iff (text : List Char) :
    (∃ w, render w = text) ↔ text.length = 10 ∧ ∀ ch ∈ text, ch = '0' ∨ ch = '1' ∨ ch = '2' := by
  constructor
  · rintro ⟨w, rfl⟩
    refine ⟨render_length w, fun ch hch => ?_⟩
    obtain ⟨d, -, rfl⟩ := List.mem_map.mp hch
    exact (mem_range_digitChar_iff _).mp ⟨d, rfl⟩
  · rintro ⟨hlength, hchars⟩
    have hrange : text ∈ Set.range (List.map digitChar) := by
      rw [Set.range_list_map]
      exact fun ch hch => (mem_range_digitChar_iff ch).mpr (hchars ch hch)
    obtain ⟨ds, rfl⟩ := hrange
    exact ⟨undigits ds.reverse, render_undigits_reverse (by simpa using hlength)⟩

/-- `parseText` is the inverse of `render`. -/
theorem parseText_eq_some_iff (text : List Char) (w : Word) : parseText text = some w ↔ render w = text := by
  constructor
  · intro h
    unfold parseText at h
    split at h
    · next hlength =>
      obtain ⟨ds, hds, rfl⟩ := Option.map_eq_some_iff.mp h
      rw [textDigits_eq_some_iff] at hds
      subst hds
      exact render_undigits_reverse (by simpa using hlength)
    · cases h
  · rintro rfl
    have hdigits : textDigits (render w) = some (digits w).reverse := (textDigits_eq_some_iff _ _).mpr rfl
    simp [parseText, hdigits]

end Sys2Proof.Alu

namespace Sys2Proof.Machine

/-! ### The use of parse -/

theorem parse_render (w : Word) : parse (Alu.render w) = .ok w := by
  rw [parse, (Alu.parseText_eq_some_iff _ w).mpr rfl]

theorem parse_of_not_render {text : List Char} (h : ¬∃ w, Alu.render w = text) :
    parse text = .error .malformedTernaryText := by
  have hnone : Alu.parseText text = none :=
    Option.eq_none_iff_forall_ne_some.mpr fun w hw => h ⟨w, (Alu.parseText_eq_some_iff text w).mp hw⟩
  rw [parse, hnone]

theorem State.parseArgument_render (w : Word) (s : State) : s.parseArgument (Alu.render w) = (s, some w) := by
  rw [State.parseArgument, parse_render]

theorem State.parseArgument_of_not_render {text : List Char} (h : ¬∃ w, Alu.render w = text) (s : State) :
    s.parseArgument text = (s.markRefused .malformedTernaryText, none) := by
  rw [State.parseArgument, parse_of_not_render h]

theorem State.markRefused_of_none {s : State} (h : s.refused = none) (r : RefuseReason) :
    s.markRefused r = s.refuse r := by
  rw [State.markRefused, h]

theorem State.markRefused_of_ne_none {s : State} (h : s.refused ≠ none) (r : RefuseReason) :
    s.markRefused r = s := by
  rcases State.markRefused_cases r s with ⟨hnone, -⟩ | ⟨-, hsame⟩
  · exact absurd hnone h
  · exact hsame

/-- Settles O4: the well-formed texts are exactly what `render` gives, and `parse` undoes it there. -/
theorem ternaryTextRoundTrips : Obligations.TernaryTextRoundTrips := by
  refine ⟨fun w => ⟨Alu.render_length w, fun j hj => Alu.render_getElem? w hj, parse_render w,
    State.parseArgument_render w⟩, fun text hlength hchars => ?_, fun text hmalformed => ?_⟩
  · obtain ⟨w, rfl⟩ := (Alu.exists_render_eq_iff text).mpr ⟨hlength, hchars⟩
    exact ⟨w, parse_render w, rfl, State.parseArgument_render w⟩
  · rw [← Alu.exists_render_eq_iff] at hmalformed
    refine ⟨parse_of_not_render hmalformed, fun s => ⟨fun hnone => ?_, fun hset => ?_⟩⟩
    · rw [State.parseArgument_of_not_render hmalformed, State.markRefused_of_none hnone]
      rfl
    · rw [State.parseArgument_of_not_render hmalformed, State.markRefused_of_ne_none hset]

end Sys2Proof.Machine
end

section
/-!
SUPPORT. The tail fill (41_loader section 3): one turn of the loop of R100 leaves the same fill to do, so the fill is the
loop, and each cell it writes is the combine of the two before it.
-/

namespace Sys2Proof.Alu

/-- Also at the top: the predecessor of `59049 mod 59049` is 59048. -/
theorem pred_ofNat_succ (n : Nat) : pred (Word.ofNat (n + 1)) = Word.ofNat n :=
  Fin.ext (show ((n + 1) % 59049 + 59048) % 59049 = n % 59049 by omega)

theorem pred_ne (w : Word) : pred w ≠ w := by
  refine Fin.ne_of_val_ne (show (w.val + 59048) % 59049 ≠ w.val from ?_)
  have := w.isLt
  omega

end Sys2Proof.Alu

namespace Sys2Proof.Machine

open Sys2Proof.Frame

theorem Memory.lookup_tailCells_succ (x y : Word) {j : Nat} (n : Nat) (hj : j < 59049) {a : Word} (ha : j ≤ a.val) :
    Memory.lookup (Memory.tailCells x y j (n + 1)) a =
      if a.val = j then some (Alu.combine x y)
      else Memory.lookup (Memory.tailCells y (Alu.combine x y) (j + 1) n) a := by
  rw [Memory.tailCells, Memory.lookup, Word.val_ofNat_of_lt hj, if_neg (Nat.not_lt_of_ge ha)]

/-- One turn of the loop of R100: writing the first cell of the tail leaves the tail from the next address on. -/
theorem Memory.fillTailWith_turn (init : Word → Word) {m : Memory} {len : Nat} (hm : Memory.wf m = true)
    (hlen : len < 59049) {v : Word}
    (hv : v = Alu.combine (Memory.readWith init m (Alu.pred (Alu.pred (Word.ofNat len))))
      (Memory.readWith init m (Alu.pred (Word.ofNat len)))) :
    Memory.fillTailWith init m len = Memory.fillTailWith init (Memory.write m (Word.ofNat len) v) (len + 1) := by
  have hm' := Memory.wf_write m (Word.ofNat len) v hm
  have hval := Word.val_ofNat_of_lt hlen
  refine canonicalMemoriesAreExtensional _ _ (Memory.wf_fillTailWith init m len hm hlen.le)
    (Memory.wf_fillTailWith init _ _ hm' hlen) fun x => ?_
  rcases Nat.lt_or_ge x.val len with hlow | hhigh
  · have hne : x ≠ Word.ofNat len := fun h => by rw [h] at hlow; omega
    rw [Memory.lookup_fillTailWith_low init m len hm hlen.le hlow,
      Memory.lookup_fillTailWith_low init _ _ hm' hlen (by omega), Memory.lookup_write_other _ _ _ _ hne]
  · rw [Memory.lookup_fillTailWith_high init m len hhigh, show 59049 - len = 59049 - (len + 1) + 1 by omega,
      Memory.lookup_tailCells_succ _ _ _ hlen hhigh, ← hv]
    split
    · have hx : x = Word.ofNat len := Fin.ext (by omega)
      rw [Memory.lookup_fillTailWith_low init _ _ hm' hlen (by omega), hx, Memory.lookup_write_same]
    · rw [Memory.lookup_fillTailWith_high init _ _ (show len + 1 ≤ x.val by omega), Alu.pred_ofNat_succ,
        Memory.readWith_write_same, Memory.readWith_write_other _ _ _ _ _ (Alu.pred_ne _)]

/-- The loop, from any address to the last, is the fill. -/
theorem fillLoop_eq_fillTail {n len : Nat} {m : Memory} (hm : Memory.wf m = true) (hlen : len + n = 59049) :
    fillLoop n len m = Memory.fillTail m len := by
  induction n generalizing len m with
  | zero =>
    have hwf := Memory.wf_fillTail m len hm hlen.le
    exact canonicalMemoriesAreExtensional _ _ hm hwf fun x =>
      (Memory.lookup_fillTail_low m len hm hlen.le (x.isLt.trans_eq hlen.symm)).symm
  | succ n ih =>
    rw [fillLoop, ih (Memory.wf_write _ _ _ hm) (by omega)]
    exact (Memory.fillTailWith_turn _ hm (by omega) rfl).symm

/-- Settles O15: turn by turn. -/
theorem theTailFillIsTheLoaderLoop : Obligations.TheTailFillIsTheLoaderLoop :=
  fun _ _ hm _ hlen => (fillLoop_eq_fillTail hm (by omega)).symm

theorem Memory.readWith_fillTailWith_low (init : Word → Word) {m : Memory} {len : Nat} (hm : Memory.wf m = true)
    (hlen : len ≤ 59049) {a : Word} (ha : a.val < len) :
    Memory.readWith init (Memory.fillTailWith init m len) a = Memory.readWith init m a := by
  rw [Memory.readWith, Memory.lookup_fillTailWith_low init m len hm hlen ha, Memory.readWith]

/-- The first cell of the tail (41_loader R96), its predecessors being whatever memory held before the fill. -/
theorem Memory.readWith_fillTailWith_first (init : Word → Word) {m : Memory} {len : Nat} (hm : Memory.wf m = true)
    (hlen : len < 59049) :
    Memory.readWith init (Memory.fillTailWith init m len) (Word.ofNat len) =
      Alu.combine (Memory.readWith init m (Alu.pred (Alu.pred (Word.ofNat len))))
        (Memory.readWith init m (Alu.pred (Word.ofNat len))) := by
  have hlow : (Word.ofNat len).val < len + 1 := by rw [Word.val_ofNat_of_lt hlen]; exact Nat.lt_succ_self len
  rw [Memory.fillTailWith_turn init hm hlen rfl,
    Memory.readWith_fillTailWith_low init (Memory.wf_write _ _ _ hm) hlen hlow, Memory.readWith_write_same]

/-- Every cell of the tail with two cells below it is the combine of those two. -/
theorem Memory.readWith_fillTailWith_high (init : Word → Word) {m : Memory} {len : Nat} (hm : Memory.wf m = true)
    (hlen : len ≤ 59049) {k : Word} (hk : len ≤ k.val) (h2 : 2 ≤ k.val) :
    Memory.readWith init (Memory.fillTailWith init m len) k =
      Alu.combine (Memory.readWith init (Memory.fillTailWith init m len) (Word.ofNat (k.val - 2)))
        (Memory.readWith init (Memory.fillTailWith init m len) (Word.ofNat (k.val - 1))) := by
  induction hk using Nat.decreasingInduction generalizing m with
  | self =>
    obtain ⟨j, hj⟩ := Nat.exists_eq_add_of_le' h2
    have hk : k = Word.ofNat (j + 2) := Fin.ext (by rw [← hj, Word.val_ofNat_of_lt k.isLt])
    have hlow {i : Nat} (hi : i < k.val) : (Word.ofNat i).val < k.val := by
      rwa [Word.val_ofNat_of_lt (hi.trans k.isLt)]
    rw [Memory.readWith_fillTailWith_low init hm hlen (hlow (by omega : k.val - 2 < k.val)),
      Memory.readWith_fillTailWith_low init hm hlen (hlow (by omega : k.val - 1 < k.val))]
    have hfirst := Memory.readWith_fillTailWith_first init hm k.isLt
    rw [hj] at hfirst ⊢
    rw [hk]
    simpa [Alu.pred_ofNat_succ] using hfirst
  | of_succ len hlt ih =>
    rw [Memory.fillTailWith_turn init hm (by omega) rfl]
    exact ih (Memory.wf_write _ _ _ hm) (by omega)
end Sys2Proof.Machine
end

section
/-!
SUPPORT. One step of the loader (41_loader): what it does with each item of `LOAD`, an equation per case in the order of
R98, and what the end of a text leaves.
-/

namespace Sys2Proof.Machine

open Sys2Proof.Frame

/-! ### One item -/

section
variable {s : State} {ch : Int}

theorem loadChar_of_isWs (hws : Config.isWs ch = true) (rest : List LoadItem) (s : State) :
    loadChar ch rest s = s.consume rest :=
  if_pos hws

theorem machine_isWs (ch : Int) : Config.machine.isWs ch = Config.isWs ch := rfl

theorem loadChar_of_full (hws : Config.isWs ch = false) (hlpos : 59049 ≤ s.lpos) (rest : List LoadItem) :
    loadChar ch rest s = s.refuse .imageTooLong := by
  rw [loadChar, loadCharWith, machine_isWs, hws, if_neg Bool.false_ne_true, if_pos hlpos]

theorem loadChar_of_not_word (hws : Config.isWs ch = false) (hlpos : s.lpos < 59049) (hch : ch < 0 ∨ 59048 < ch)
    (rest : List LoadItem) : loadChar ch rest s = s.refuse .charOutOfRange := by
  rw [loadChar, loadCharWith, machine_isWs, hws, if_neg Bool.false_ne_true, if_neg (Nat.not_le_of_lt hlpos), if_pos hch]

/-- The code of a significant character that is a Word, below 59049 characters, is checked and stored (R93 to R95). -/
theorem loadChar_of_word (hws : Config.isWs ch = false) (hlpos : s.lpos < 59049) (h0 : 0 ≤ ch) (hmax : ch ≤ 59048)
    (rest : List LoadItem) :
    loadChar ch rest s = checkAndStoreWith Config.decodeWrap (Word.ofNat ch.toNat) rest s := by
  rw [loadChar, loadCharWith, machine_isWs, hws, if_neg Bool.false_ne_true, if_neg (Nat.not_le_of_lt hlpos),
    if_neg (by omega)]
  rfl

theorem loadChar_of_legal (hws : Config.isWs ch = false) (hlpos : s.lpos < 59049) (hlegal : LegalAt ch s.lpos)
    (rest : List LoadItem) : loadChar ch rest s = s.storeChar (Word.ofNat ch.toNat) rest := by
  obtain ⟨h0, hmax, hres⟩ := hlegal
  rw [loadChar_of_word hws hlpos h0 hmax]
  exact if_pos hres

theorem loadChar_of_illegal (hws : Config.isWs ch = false) (hlpos : s.lpos < 59049) (h0 : 0 ≤ ch) (hmax : ch ≤ 59048)
    (hillegal : ¬LegalAt ch s.lpos) (rest : List LoadItem) :
    loadChar ch rest s =
      s.raiseFault (.loadInvalidOpcode (residue (Word.ofNat ch.toNat) (Word.ofNat s.lpos))) := by
  rw [loadChar_of_word hws hlpos h0 hmax]
  exact if_neg fun hres => hillegal ⟨h0, hmax, hres⟩

theorem endText_of_pos (hlpos : 1 ≤ s.lpos) (rest : List LoadItem) : endText rest s = s.finishLoad rest :=
  if_neg (Nat.one_le_iff_ne_zero.mp hlpos)

end

/-! ### One step -/

section
variable {s : State} {ch : Int} {rest : List LoadItem} (hload : s.phase = .loading) (hrefused : s.refused = none)
include hload hrefused

theorem step_of_char (hitems : s.load = .char ch :: rest) : step s = .next (loadChar ch rest s) := by
  rw [step_of_loading hload, loadStep_eq, hrefused, hitems]

theorem step_of_endOfText (hitems : s.load = .endOfText :: rest) : step s = .next (endText rest s) := by
  rw [step_of_loading hload, loadStep_eq, hrefused, hitems]

end

/-- Settles O46: whitespace is the first of the loader's tests. -/
theorem whitespaceIsDropped : Obligations.WhitespaceIsDropped := by
  intro s ch rest hload hrefused hitems hws
  rw [step_of_char hload hrefused hitems, loadChar_of_isWs hws]
  rfl

/-- A legal character is a Word of the same value. -/
theorem val_ofNat_of_legalAt {ch : Int} {k : Nat} (h : LegalAt ch k) : ((Word.ofNat ch.toNat).val : Int) = ch := by
  obtain ⟨h0, hmax, -⟩ := h
  rw [Word.val_ofNat_of_lt (by omega), Int.toNat_of_nonneg h0]

/-- Settles O47: the store writes the one cell at LPOS. -/
theorem aLegalCharacterIsStoredRaw : Obligations.ALegalCharacterIsStoredRaw := by
  intro s ch rest hload hrefused hitems hws hlpos hlegal
  have hstep := step_of_char hload hrefused hitems
  rw [loadChar_of_legal hws hlpos hlegal] at hstep
  refine ⟨_, hstep, rfl, rfl, ?_, fun x hx => ?_, rfl, rfl, rfl, rfl, hload, rfl, rfl, hrefused, rfl, rfl, rfl, rfl⟩
  · rw [State.read_eq, State.storeChar_mem, Memory.read_write_same, val_ofNat_of_legalAt hlegal]
  · have hne : x ≠ Word.ofNat s.lpos := fun e => hx (e ▸ Word.val_ofNat_of_lt hlpos)
    rw [State.read_eq, State.storeChar_mem, Memory.read_write_other _ _ _ _ hne, State.read_eq]

/-- The loader's test in the numbers of 41_loader R93. -/
theorem legal_iff_val_mem (r : Residue) : legal r = true ↔ r.val ∈ [4, 5, 23, 39, 40, 62, 68, 81] := by
  revert r
  decide

/-- Settles O48: the residue's number is `residueWith_true_val`. -/
theorem anIllegalCharacterTakesTheLoadFault : Obligations.AnIllegalCharacterTakesTheLoadFault := by
  intro s ch rest hload hrefused hitems hws hlpos h0 hmax hres
  have hillegal : ¬LegalAt ch s.lpos := fun ⟨_, _, hlegal⟩ => hres ((legal_iff_val_mem _).mp hlegal)
  have hstep := step_of_char hload hrefused hitems
  rw [loadChar_of_illegal hws hlpos h0 hmax hillegal] at hstep
  refine ⟨_, _, hstep, rfl, rfl, rfl, ?_⟩
  rw [Fault.info, residue_eq_residueWith_true, residueWith_true_val, Word.val_ofNat_of_lt hlpos,
    Word.val_ofNat_of_lt (by omega)]

/-- Settles O49: each refusal is its test's own case, past the tests before it. -/
theorem theLoaderRefusesInOrder : Obligations.TheLoaderRefusesInOrder := by
  intro s rest hload hrefused
  refine ⟨fun ch hitems hws hlpos => ?_, fun ch hitems hws hlpos hch => ?_, fun hitems hlpos => ?_⟩
  · rw [step_of_char hload hrefused hitems, loadChar_of_full hws hlpos.ge]
    rfl
  · rw [step_of_char hload hrefused hitems, loadChar_of_not_word hws hlpos hch]
    rfl
  · rw [step_of_endOfText hload hrefused hitems, endText_eq, if_pos hlpos]
    rfl

/-- Settles O50: what the tail fill leaves in each cell. -/
theorem theEndOfTextFillsTheTail : Obligations.TheEndOfTextFillsTheTail := by
  intro s rest hload hrefused hitems hpos hlpos hwf
  have hstep := step_of_endOfText hload hrefused hitems
  rw [endText_of_pos hpos] at hstep
  refine ⟨_, hstep, rfl, rfl, rfl, fun k hk => ?_, fun k hk h2 => ?_, fun h1 => ?_, rfl, rfl, rfl, rfl, rfl, rfl,
    hrefused, rfl, rfl, rfl, rfl⟩
  · exact Memory.readWith_fillTailWith_low _ hwf hlpos hk
  · exact Memory.readWith_fillTailWith_high _ hwf hlpos hk h2
  · have hfirst := Memory.readWith_fillTailWith_first Memory.unwritten hwf (show s.lpos < 59049 by omega)
    rw [h1] at hfirst
    rw [State.read_eq, State.finishLoad_mem, h1]
    exact hfirst

/-- The loader leaves LOADING for RUNNING only by completing a text (41_loader R101). -/
theorem eq_finishLoad_of_step_running {s t : State} (hload : s.phase = .loading) (h : step s = .next t)
    (hrun : t.phase = .running) : 1 ≤ s.lpos ∧ ∃ rest, t = s.finishLoad rest := by
  rw [step_of_loading hload] at h
  obtain ⟨-, ⟨-, rfl⟩ | ⟨ch, rest, -, rfl⟩ | ⟨rest, -, -, rfl⟩ | ⟨rest, -, hpos, rfl⟩⟩ := loadStep_cases h
  · simp [hload] at hrun
  · rcases loadChar_cases ch rest s with
      ⟨-, e⟩ | ⟨-, -, e⟩ | ⟨-, -, -, e⟩ | ⟨-, -, -, -, -, e⟩ | ⟨-, -, -, -, -, e⟩ <;> simp [e, hload] at hrun
  · simp [hload] at hrun
  · exact ⟨Nat.one_le_iff_ne_zero.mpr hpos, rest, rfl⟩

/-- Settles O51: C is still 0, and the fill keeps cell 0, the first of the legal image. -/
theorem theFirstInstructionAfterALoadIsLegal : Obligations.TheFirstInstructionAfterALoadIsLegal := by
  intro s t hs hload h hrun
  obtain ⟨hpos, rest, rfl⟩ := eq_finishLoad_of_step_running hload h hrun
  obtain ⟨-, hc, -⟩ := hs.loadingRegs hload
  obtain ⟨v, hv, hlegal⟩ := (hs.loadingImage hload 0).1 hpos
  have hread : (s.finishLoad rest).read 0 = v :=
    Memory.read_of_lookup ((Memory.lookup_fillTail_low s.mem s.lpos hs.memWf hs.lposLe (a := 0) hpos).trans hv)
  rw [State.finishLoad_c, hc, hread]
  exact hlegal

end Sys2Proof.Machine
end

section
/-!
SUPPORT. The loader over a whole text (41_loader section 2): one step per character leaves the significant characters,
raw and in order, from the address LPOS on, wherever whitespace stands.
-/

namespace Sys2Proof.Machine

open Sys2Proof.Frame

/-! ### What a text leaves -/

/-- Memory after the raw codes `sig` have been stored from address `i` on (41_loader R94). -/
def Memory.storeText (m : Memory) (i : Nat) : List Int → Memory
  | [] => m
  | ch :: rest => Memory.storeText (Memory.write m (Word.ofNat i) (Word.ofNat ch.toNat)) (i + 1) rest

/-- The loader after it has stored the codes `sig`, the rest of `LOAD` being `tail`. -/
def State.storeText (sig : List Int) (tail : List LoadItem) (s : State) : State :=
  { s with mem := Memory.storeText s.mem s.lpos sig, lpos := s.lpos + sig.length, load := tail }

theorem State.storeText_nil {s : State} {tail : List LoadItem} (h : s.load = tail) : s.storeText [] tail = s := by
  subst h
  rfl

theorem State.storeText_consume (sig : List Int) (rest tail : List LoadItem) (s : State) :
    (s.consume rest).storeText sig tail = s.storeText sig tail := rfl

theorem State.storeText_storeChar (ch : Int) (sig : List Int) (rest tail : List LoadItem) (s : State) :
    (s.storeChar (Word.ofNat ch.toNat) rest).storeText sig tail = s.storeText (ch :: sig) tail := by
  simp [State.storeText, State.storeChar, Memory.storeText, Nat.add_assoc, Nat.add_comm 1]

theorem State.storeText_lpos_of_fresh {s : State} (hfresh : FreshLoader s) (sig : List Int) (tail : List LoadItem) :
    (s.storeText sig tail).lpos = sig.length := by
  obtain ⟨-, -, hlpos, -⟩ := hfresh
  rw [State.storeText, hlpos, Nat.zero_add]

theorem Memory.wf_storeText (sig : List Int) {m : Memory} (hm : Memory.wf m = true) (i : Nat) :
    Memory.wf (Memory.storeText m i sig) = true := by
  induction sig generalizing m i with
  | nil => exact hm
  | cons ch sig ih => exact ih (Memory.wf_write _ _ _ hm) (i + 1)

theorem Memory.read_storeText_below (sig : List Int) (m : Memory) {i : Nat} (hi : i + sig.length ≤ 59049) {a : Word}
    (ha : a.val < i) : Memory.read (Memory.storeText m i sig) a = Memory.read m a := by
  induction sig generalizing m i with
  | nil => rfl
  | cons ch sig ih =>
    rw [List.length_cons] at hi
    have hne : a ≠ Word.ofNat i := fun e => by
      rw [e, Word.val_ofNat_of_lt (by omega)] at ha
      exact lt_irrefl i ha
    rw [Memory.storeText, ih _ (by omega) (by omega), Memory.read_write_other _ _ _ _ hne]

/-- The `k`-th character stands in the `k`-th cell from the first address on. -/
theorem Memory.read_storeText {sig : List Int} (m : Memory) {i k : Nat} (hi : i + sig.length ≤ 59049) {a : Word}
    (ha : a.val = i + k) {ch : Int} (hch : sig[k]? = some ch) :
    Memory.read (Memory.storeText m i sig) a = Word.ofNat ch.toNat := by
  induction sig generalizing m i k with
  | nil => simp at hch
  | cons ch' sig ih =>
    rw [List.length_cons] at hi
    rw [Memory.storeText]
    cases k with
    | zero =>
      obtain rfl : ch' = ch := by simpa using hch
      have hai : a = Word.ofNat i := Fin.ext (by rw [ha, Word.val_ofNat_of_lt (by omega), Nat.add_zero])
      rw [Memory.read_storeText_below sig _ (by omega) (by omega), hai, Memory.read_write_same]
    | succ k => exact ih (k := k) _ (by omega) (by omega) (by simpa using hch)

/-! ### The run over a text -/

theorem run_succ_of_step {M : Host.Core} {s t : M.State} (h : M.step s = .next t) (n : Nat) :
    M.run (n + 1) s = M.run n t := by
  rw [Host.Core.run, h]

theorem significant_cons_of_isWs {ch : Int} (hws : Config.isWs ch = true) (codes : List Int) :
    significant (ch :: codes) = significant codes := by
  simp [significant, hws]

theorem significant_cons_of_not_isWs {ch : Int} (hws : Config.isWs ch = false) (codes : List Int) :
    significant (ch :: codes) = ch :: significant codes := by
  simp [significant, hws]

/-- One step per character of a text whose significant characters are legal where they come to stand. -/
theorem run_text {codes : List Int} {tail : List LoadItem} {s : State} (n : Nat) (hload : s.phase = .loading)
    (hrefused : s.refused = none) (hitems : s.load = codes.map LoadItem.char ++ tail)
    (hlen : s.lpos + (significant codes).length ≤ 59049)
    (hlegal : ∀ k ch, (significant codes)[k]? = some ch → LegalAt ch (s.lpos + k)) :
    Host.Core.run core (codes.length + n) s = Host.Core.run core n (s.storeText (significant codes) tail) := by
  induction codes generalizing s with
  | nil =>
    rw [List.length_nil, Nat.zero_add]
    exact congrArg (core.run n) (State.storeText_nil hitems).symm
  | cons ch codes ih =>
    have hstep := step_of_char (rest := codes.map LoadItem.char ++ tail) hload hrefused hitems
    rw [List.length_cons, Nat.add_right_comm]
    cases hws : Config.isWs ch with
    | true =>
      rw [significant_cons_of_isWs hws] at hlen hlegal ⊢
      rw [loadChar_of_isWs hws] at hstep
      rw [← State.storeText_consume _ (codes.map LoadItem.char ++ tail)]
      exact (run_succ_of_step hstep _).trans (ih hload hrefused rfl hlen hlegal)
    | false =>
      rw [significant_cons_of_not_isWs hws] at hlen hlegal ⊢
      rw [List.length_cons] at hlen
      rw [loadChar_of_legal hws (by omega) (hlegal 0 ch rfl)] at hstep
      have hlegal' (k : Nat) (c : Int) (hc : (significant codes)[k]? = some c) : LegalAt c (s.lpos + 1 + k) := by
        rw [Nat.add_assoc, Nat.add_comm 1]
        exact hlegal (k + 1) c hc
      rw [← State.storeText_storeChar ch _ (codes.map LoadItem.char ++ tail)]
      refine (run_succ_of_step hstep _).trans (ih hload hrefused rfl ?_ hlegal')
      rw [State.storeChar_lpos]
      omega

/-- From a fresh loader: the legal text, and then one step, on the item that follows it. -/
theorem run_fresh_text {codes : List Int} {tail : List LoadItem} {s t : State} (hfresh : FreshLoader s)
    (hitems : s.load = codes.map LoadItem.char ++ tail) (hlen : (significant codes).length ≤ 59049)
    (hlegal : AllLegal (significant codes)) (hstep : step (s.storeText (significant codes) tail) = .next t) :
    Host.Core.run core (codes.length + 1) s = .next t := by
  obtain ⟨hload, hrefused, hlpos, -⟩ := hfresh
  have htext := run_text 1 hload hrefused hitems (by rwa [hlpos, Nat.zero_add]) fun k ch hch => by
    rw [hlpos, Nat.zero_add]
    exact hlegal k ch hch
  exact htext.trans (run_succ_of_step hstep 0)

/-- Settles O52: the text leaves its significant characters, and the end mark fills the tail after them. -/
theorem theLoaderLoadsEveryLegalText : Obligations.TheLoaderLoadsEveryLegalText := by
  intro codes rest s hfresh hitems hpos hlen hlegal
  have hlpos' := State.storeText_lpos_of_fresh hfresh (significant codes) (.endOfText :: rest)
  have hrun {t : State} := run_fresh_text (t := t) hfresh hitems hlen hlegal
  obtain ⟨hload, hrefused, hlpos, hwf⟩ := hfresh
  obtain ⟨t, hstep, hphase, hlenT, hloadT, hlow, hhigh, -, ha, hc, hd, hcycles, -, hfault, hrefusedT, hstreams⟩ :=
    theEndOfTextFillsTheTail (s.storeText (significant codes) (.endOfText :: rest)) rest hload hrefused rfl
      (hlpos'.symm ▸ hpos) (hlpos'.symm ▸ hlen) (Memory.wf_storeText _ hwf _)
  rw [hlpos'] at hlenT hlow hhigh
  refine ⟨t, hrun hstep, hphase, hloadT, hlenT, fun k ch hch => ?_, hhigh, ha, hc, hd, hcycles, hfault, hrefusedT,
    hstreams⟩
  obtain ⟨hk, -⟩ := List.getElem?_eq_some_iff.mp hch
  have hcell : Memory.read (Memory.storeText s.mem s.lpos (significant codes)) k = Word.ofNat ch.toNat :=
    Memory.read_storeText s.mem (by omega) (by omega) hch
  rw [hlow k hk, ← val_ofNat_of_legalAt (hlegal k ch hch), ← hcell]
  rfl

/-- Settles O53: the step after the legal text takes the fault; the items after it are never looked at. -/
theorem theFirstIllegalCharacterDecides : Obligations.TheFirstIllegalCharacterDecides := by
  intro codes bad rest s hfresh hitems hlen hlegal hws h0 hmax hillegal
  have hlpos' := State.storeText_lpos_of_fresh hfresh (significant codes) (.char bad :: rest)
  have hrun {t : State} := run_fresh_text (t := t) hfresh hitems hlen.le hlegal
  obtain ⟨hload, hrefused, -, -⟩ := hfresh
  have hstep := step_of_char (s := s.storeText (significant codes) (.char bad :: rest)) hload hrefused rfl
  rw [loadChar_of_illegal hws (by rwa [hlpos']) h0 hmax (by rwa [hlpos'])] at hstep
  exact ⟨_, hrun hstep, rfl, by rw [State.raiseFault_fault, hlpos']⟩

end Sys2Proof.Machine
end

section
/-!
SUPPORT. Decode and encrypt (42_decode_encrypt): every cell decodes, the common tail of a cycle replaces the cell at C
by its substitute, and what the next fetch of an address reads after a cycle.
-/

namespace Sys2Proof

/-! ### Every cell decodes -/

/-- A map gives one of its own rows for a residue, or has none for it. -/
theorem lookupResidue_cases (r : Residue) (rows : List (Residue × Instr)) :
    (∃ i, lookupResidue r rows = some i ∧ (r, i) ∈ rows) ∨
    (lookupResidue r rows = none ∧ r ∉ rows.map Prod.fst) := by
  induction rows with
  | nil => exact .inr ⟨rfl, List.not_mem_nil⟩
  | cons row rest ih =>
    obtain ⟨k, i⟩ := row
    by_cases hk : r = k
    · exact .inl ⟨i, if_pos hk, hk ▸ List.mem_cons_self⟩
    · have hskip : lookupResidue r ((k, i) :: rest) = lookupResidue r rest := if_neg hk
      rw [hskip]
      rcases ih with ⟨j, hj, hmem⟩ | ⟨hnone, hmem⟩
      · exact .inl ⟨j, hj, List.mem_cons_of_mem _ hmem⟩
      · exact .inr ⟨hnone, List.not_mem_cons_of_ne_of_not_mem hk hmem⟩

/-- The decoder answers a row of the opcode map, or NOPX for a residue that has none (30_encoding R52, R53). -/
theorem decodeResidue_cases (r : Residue) :
    (r, decodeResidue r) ∈ opcodeMap ∨ (r ∉ legalResidues ∧ decodeResidue r = .nopx r) := by
  unfold decodeResidue
  rcases lookupResidue_cases r opcodeMap with ⟨i, hi, hmem⟩ | ⟨hnone, hmem⟩
  · rw [hi]
    exact .inl hmem
  · rw [hnone]
    exact .inr ⟨hmem, rfl⟩

theorem opcodeMap_wellFormed_residueOf :
    ∀ row ∈ opcodeMap, row.2.wellFormed = true ∧ residueOf row.2 = row.1 := by
  decide

theorem decodeResidue_wellFormed (r : Residue) : (decodeResidue r).wellFormed = true := by
  rcases decodeResidue_cases r with hrow | ⟨hunassigned, hnopx⟩
  · exact (opcodeMap_wellFormed_residueOf _ hrow).1
  · simpa [hnopx, Instr.wellFormed] using hunassigned

theorem residueOf_decodeResidue (r : Residue) : residueOf (decodeResidue r) = r := by
  rcases decodeResidue_cases r with hrow | ⟨-, hnopx⟩
  · exact (opcodeMap_wellFormed_residueOf _ hrow).2
  · rw [hnopx, residueOf]

/-- Settles O9: decoding keeps the residue, and the encoding of an instruction has the instruction's residue. -/
theorem everyCellDecodesToItsResidue : Obligations.EveryCellDecodesToItsResidue := by
  intro v p
  have hres : residueOf (decode v p) = residue v p := residueOf_decodeResidue (residue v p)
  exact ⟨decodeResidue_wellFormed _, hres, (residueWith_encodeWith Config.decodeWrap (decode v p) p).trans hres⟩

namespace Machine

open Sys2Proof.Frame

/-! ### The write-back -/

/-- The substitute of a Word is the table's byte for its residue modulo 94 (42_decode_encrypt R112, R114). -/
theorem encrypt_val (w : Word) : (encrypt w).val = ciphered w := rfl

/-- The common tail of a cycle rewrites the cell at the C it starts from and no other (42_decode_encrypt R114). -/
theorem State.completeCycle_onlyRewrites (u : State) : OnlyRewrites u u.completeCycle u.c := by
  refine ⟨?_, fun y hy => Memory.read_write_other _ _ _ _ hy⟩
  rw [State.read_eq, State.completeCycle_mem, Memory.read_write_same, encrypt_val]
  rfl

/-- A meaning completes its cycle, or it is End's or a faulting or waiting In's, which moves nothing an instruction can
act on and does not count. -/
theorem exec_completes_or_keeps {i : Instr} {s t : State} (h : exec i s = .next t) :
    (∃ u, Dispatched i s u ∧ t = u.completeCycle) ∨
    (t.cycles = s.cycles ∧ SameMachine s t ∧ (i = .halt ∨ i = .inp)) := by
  rcases exec_cases h with hcompletes | ⟨hi, rfl⟩ | ⟨hi, -, -, rfl⟩ | ⟨hi, -, -, rfl⟩
  · exact .inl hcompletes
  · exact .inr ⟨rfl, ⟨rfl, rfl, rfl, rfl, rfl, rfl, rfl, rfl⟩, .inl hi⟩
  all_goals exact .inr ⟨rfl, ⟨rfl, rfl, rfl, rfl, rfl, rfl, rfl, rfl⟩, .inr hi⟩

/-- Settles O27: the cell before the new C is the one the write-back has just replaced by a byte of the table. -/
theorem aCycleCompletesOrChangesNothing : Obligations.ACycleCompletesOrChangesNothing := by
  intro i s t h
  rcases exec_completes_or_keeps h with ⟨u, hd, rfl⟩ | hkeeps
  · obtain ⟨hphase, -, -, hcycles, -⟩ := dispatched_frame hd
    have hbyte : (u.completeCycle.read (Alu.pred u.completeCycle.c)).val = ciphered (u.read u.c) := by
      rw [State.completeCycle_c, Alu.pred_inc]
      exact u.completeCycle_onlyRewrites.1
    refine .inl ⟨congrArg (· + 1) hcycles, ?_, hphase, ?_, _, hbyte⟩
    · rintro rfl
      exact not_dispatched_halt hd
    · rw [hbyte]
      exact Nat.le_of_lt_succ (Fin.isLt _)
  · exact .inr hkeeps

/-! ### The next fetch of an address -/

/-- Settles O39: dispatch moves neither C nor the cell there, so the write-back replaces what the cell held. -/
theorem aRevisitDecodesTheSubstitute : Obligations.ARevisitDecodesTheSubstitute := by
  intro s t hrun h hcounted hjmp hstore
  rw [step_of_running hrun] at h
  rcases exec_completes_or_keeps h with ⟨u, hd, rfl⟩ | ⟨hcycles, -⟩
  · have hc : u.c = s.c := (dispatched_c hd).trans (if_neg hjmp)
    have hcell : u.read s.c = s.read s.c := by
      by_contra hne
      obtain ⟨hd_eq, hi⟩ := dispatched_read_ne hd hne
      exact hstore hi hd_eq.symm
    have hwritten : (u.completeCycle.read s.c).val = ciphered (s.read s.c) := by
      rw [← hcell, ← hc]
      exact u.completeCycle_onlyRewrites.1
    rw [residue_eq_residueWith_true, residueWith_true_val, hwritten]
  · omega

/-- Settles O40: the write-back of Jmp rewrites the target, which is another cell. -/
theorem aJmpCellSurvivesItsJump : Obligations.AJmpCellSurvivesItsJump := by
  intro s t hrun hjmp hne h
  rw [step_of_running hrun, State.fetch_eq, hjmp] at h
  obtain rfl : (s.setC s.operand).completeCycle = t := Host.Outcome.next.inj h
  have hkept : (s.setC s.operand).completeCycle.read s.c = s.read s.c :=
    (s.setC s.operand).completeCycle_onlyRewrites.2 s.c hne.symm
  exact ⟨hkept, by rw [hkept, hjmp]⟩

end Machine

end Sys2Proof
end

section
/-!
SUPPORT. The execution cycle (43_execution_cycle): a running step is the meaning of the decoded instruction, what it can
do to the streams, that every run keeps the invariant, and where a step looks at the open parameters.
-/

namespace Sys2Proof.Machine

open Sys2Proof.Frame

/-! ### A step by phase -/

/-- Settles O12: the fetch of a state is that decode (43_execution_cycle R126 step 1). -/
theorem aStepRunsTheDecodedInstruction : Obligations.AStepRunsTheDecodedInstruction :=
  fun _ hrun => step_of_running hrun

theorem stepWith_of_halted (P : Params) {s : State} (hhalted : s.phase = .halted) : stepWith P s = .next s := by
  simp only [stepWith, hhalted, haltedStep]

theorem stepWith_of_faulted (P : Params) {s : State} (hfaulted : s.phase = .faulted) :
    stepWith P s = faultedStep s := by
  simp only [stepWith, hfaulted]

theorem faultedStep_of_recorded {s : State} {f : Fault} (hfault : s.fault = some f) : faultedStep s = .fault f := by
  simp only [faultedStep, hfault]

/-- Settles O34: neither phase looks at anything but its record. -/
theorem stoppedPhasesStayStopped : Obligations.StoppedPhasesStayStopped := by
  constructor
  · intro s hhalted
    rw [step_eq_stepWith, stepWith_of_halted _ hhalted]
  · intro s f hfaulted hfault
    rw [step_eq_stepWith, stepWith_of_faulted _ hfaulted, faultedStep_of_recorded hfault]

/-- Where the cell at C has the residue of an instruction, the step is the meaning of that instruction. -/
theorem reachedAt_of_exec {i : Instr} {s t : State} (hi : i.wellFormed = true) (h : exec i s = .next t) :
    ReachedAt s t (residueOf i).val := by
  intro hrun hres
  rw [step_of_running hrun, State.fetch_eq, decode_of_residue hi (Fin.ext hres), h]

/-- Settles O19: the meaning of End is `enterHalted`, which writes the phase only. -/
theorem endHaltsAndChangesNothingElse : Obligations.EndHaltsAndChangesNothingElse := by
  intro s
  have hexec : exec .halt s = .next s.enterHalted := rfl
  have hsame : SameMachine s s.enterHalted := ⟨rfl, rfl, rfl, rfl, rfl, rfl, rfl, rfl⟩
  exact ⟨s.enterHalted, hexec, rfl, hsame, rfl, rfl, rfl, rfl, rfl, rfl, reachedAt_of_exec rfl hexec⟩

/-! ### The streams -/

/-- A meaning supplies nothing on IN, appends to OUT under Out only, and takes a byte of IN under In only
(46_io R163). -/
theorem execWith_streams {P : Params} {i : Instr} {s t : State} (h : execWith P i s = .next t) :
    t.inStream = s.inStream ∧ t.inEnded = s.inEnded ∧
    (t.out = s.out ∨ (i = .out ∧ t.out = s.out ++ [outsymWith P.valid7 (code7 s.a)])) ∧
    (t.inPos = s.inPos ∨ (i = .inp ∧ t.inPos = s.inPos + 1 ∧ ∃ b, s.nextByte = some b ∧ t.a = Word.ofByte b)) := by
  rcases execWith_completes_or_sameMachine h with ⟨u, hd, rfl⟩ | ⟨-, -, -, -, hstream, hpos, hended, hout⟩
  · obtain ⟨-, -, -, -, -, -, -, hstream, hended⟩ := dispatched_frame hd
    have hout := dispatched_out hd
    have hin := dispatched_inPos hd
    exact ⟨hstream, hended, hout, hin⟩
  · exact ⟨hstream, hended, .inl hout, .inl hpos⟩

theorem stepWith_sameStreams_of_not_running {P : Params} {s t : State} (hrun : s.phase ≠ .running)
    (h : stepWith P s = .next t) : SameStreams s t := by
  rcases stepWith_cases h with ⟨-, h⟩ | ⟨hrun', -⟩ | ⟨-, rfl⟩ | ⟨-, -, rfl⟩
  · obtain ⟨-, -, -, -, hstreams⟩ := loadStepWith_frame h
    exact hstreams
  · exact absurd hrun' hrun
  · exact ⟨rfl, rfl, rfl, rfl⟩
  · exact ⟨rfl, rfl, rfl, rfl⟩

/-- Settles O30: a running step by its instruction's meaning; no other step touches the streams. -/
theorem streamsMoveOnlyUnderOutAndIn : Obligations.StreamsMoveOnlyUnderOutAndIn := by
  intro s t h
  rw [step_eq_stepWith] at h
  by_cases hrun : s.phase = .running
  · rw [stepWith_of_running _ hrun] at h
    obtain ⟨hstream, hended, hout, hin⟩ := execWith_streams h
    refine ⟨hstream, hended, hout.imp_right ?_, hin.imp_right ?_⟩
    · exact fun ⟨hfetch, happended⟩ => ⟨hrun, hfetch, _, happended⟩
    · exact fun ⟨hfetch, hpos, b, hbyte, ha⟩ => ⟨hrun, hfetch, hpos, b, hbyte, congrArg Fin.val ha⟩
  · obtain ⟨hstream, hpos, hended, hout⟩ := stepWith_sameStreams_of_not_running hrun h
    exact ⟨hstream, hended, .inl hout, .inl hpos⟩

/-! ### Runs -/

theorem runEvent_eq_runEventWith (e : Event) (s : State) : runEvent e s = runEventWith Config.machine e s := by
  cases e with
  | step => exact step_eq_stepWith s
  | env m => rfl
  | parse text => rfl

/-- The machine's run is that of its instance. -/
theorem runEvents_eq_runEventsWith (events : List Event) (s : State) :
    runEvents events s = runEventsWith Config.machine events s := by
  induction events generalizing s with
  | nil => rfl
  | cons e rest ih =>
    rw [runEvents, runEventsWith, runEvent_eq_runEventWith]
    cases runEventWith Config.machine e s with
    | next t => exact ih t
    | fault f => rfl
    | refused r => rfl

/-- Settles O45: the run of the machine's instance keeps its invariant. -/
theorem everyRunKeepsTheInvariant : Obligations.EveryRunKeepsTheInvariant :=
  fun events s _ hs h => hs.runEventsWith ((runEvents_eq_runEventsWith events s).symm.trans h)

/-! ### Where a step looks at the parameters -/

/-- The two readings of the decode sum part only where it reaches 59049 (30_encoding R51). -/
theorem residueWith_congr {wrap wrap' : Bool} {v p : Word} (h : wrap = wrap' ∨ v.val + p.val < 59049) :
    residueWith wrap v p = residueWith wrap' v p := by
  rcases h with rfl | hlt
  · rfl
  · exact Fin.ext ((residueWith_val_of_sum_lt wrap hlt).trans (residueWith_val_of_sum_lt wrap' hlt).symm)

section
variable {P Q : Params} (hinit : P.memInit = Q.memInit)
include hinit

theorem State.readWith_congr (s : State) (x : Word) : s.readWith P x = s.readWith Q x := by
  rw [State.readWith_eq, State.readWith_eq, hinit]

theorem State.operandWith_congr (s : State) : s.operandWith P = s.operandWith Q :=
  s.readWith_congr hinit s.operandAddr

theorem State.fetchWith_congr {s : State}
    (hwrap : P.decodeWrap = Q.decodeWrap ∨ (s.readWith P s.c).val + s.c.val < 59049) :
    s.fetchWith P = s.fetchWith Q := by
  rw [State.fetchWith, State.fetchWith, decodeWith, decodeWith, residueWith_congr hwrap, s.readWith_congr hinit]

theorem State.finishLoadWith_congr (rest : List LoadItem) (s : State) :
    s.finishLoadWith P rest = s.finishLoadWith Q rest := by
  rw [State.finishLoadWith, State.finishLoadWith, hinit]

theorem endTextWith_congr (rest : List LoadItem) (s : State) : endTextWith P rest s = endTextWith Q rest s := by
  rw [endTextWith, endTextWith, s.finishLoadWith_congr hinit]

variable (henc : P.enc = Q.enc)
include henc

theorem State.completeCycleWith_congr (s : State) : s.completeCycleWith P = s.completeCycleWith Q := by
  rw [State.completeCycleWith, State.completeCycleWith, State.writeBackWith, State.writeBackWith, henc,
    s.readWith_congr hinit]

/-- A meaning looks at VALID7 under Out only (46_io R162). -/
theorem execWith_congr {i : Instr} {s : State} (hvalid : i = .out → P.valid7 (code7 s.a) = Q.valid7 (code7 s.a)) :
    execWith P i s = execWith Q i s := by
  have hop := s.operandWith_congr hinit
  have hcycle := State.completeCycleWith_congr hinit henc
  cases i with
  | jmp => simp only [execWith, execJmpWith, hop, hcycle]
  | out => simp only [execWith, execOutWith, outsymWith, hvalid rfl, hcycle]
  | inp => simp only [execWith, execInWith, hcycle]
  | rot => simp only [execWith, execRotWith, hop, hcycle]
  | setD => simp only [execWith, execSetDWith, hop, hcycle]
  | crz => simp only [execWith, execCrzWith, hop, hcycle]
  | nop => simp only [execWith, execNopWith, hcycle]
  | halt => rfl
  | nopx r => simp only [execWith, execNopxWith, hcycle]

end

theorem checkAndStoreWith_congr {wrap wrap' : Bool} {v : Word} {s : State}
    (h : wrap = wrap' ∨ v.val + (Word.ofNat s.lpos).val < 59049) (rest : List LoadItem) :
    checkAndStoreWith wrap v rest s = checkAndStoreWith wrap' v rest s := by
  rw [checkAndStoreWith, checkAndStoreWith, residueWith_congr h]

/-- A character is looked up in IS_WS, then checked under DECODE_WRAP (41_loader R91, R93). -/
theorem loadCharWith_congr {P Q : Params} {ch : Int} {s : State} (hws : P.isWs ch = Q.isWs ch)
    (hwrap : P.decodeWrap = Q.decodeWrap ∨ ch.toNat + s.lpos < 59049) (rest : List LoadItem) :
    loadCharWith P ch rest s = loadCharWith Q ch rest s := by
  have hsum : P.decodeWrap = Q.decodeWrap ∨ (Word.ofNat ch.toNat).val + (Word.ofNat s.lpos).val < 59049 := by
    refine hwrap.imp_right fun hlt => ?_
    rwa [Word.val_ofNat_of_lt (by omega), Word.val_ofNat_of_lt (by omega)]
  rw [loadCharWith, loadCharWith, hws, checkAndStoreWith_congr hsum]

theorem loadStepWith_congr {P Q : Params} {s : State} (hinit : P.memInit = Q.memInit)
    (hchar : ∀ (ch : Int) (rest : List LoadItem), s.load = .char ch :: rest →
      P.isWs ch = Q.isWs ch ∧ (P.decodeWrap = Q.decodeWrap ∨ ch.toNat + s.lpos < 59049)) :
    loadStepWith P s = loadStepWith Q s := by
  rw [loadStepWith, loadStepWith]
  cases s.refused with
  | some r => rfl
  | none =>
    match hitems : s.load with
    | [] => rfl
    | .char ch :: rest =>
      obtain ⟨hws, hwrap⟩ := hchar ch rest hitems
      exact congrArg Host.Outcome.next (loadCharWith_congr hws hwrap rest)
    | .endOfText :: rest => exact congrArg Host.Outcome.next (endTextWith_congr hinit rest s)

/-- Settles O58: by phase; in HALTED and FAULTED a step looks at no parameter. -/
theorem aStepConsultsTheParametersOnlyWhereItLooks : Obligations.AStepConsultsTheParametersOnlyWhereItLooks := by
  intro P Q s henc hinit hrunning hloading
  cases hphase : s.phase with
  | loading =>
    rw [stepWith_of_loading P hphase, stepWith_of_loading Q hphase, loadStepWith_congr hinit (hloading hphase)]
  | running =>
    obtain ⟨hwrap, hvalid⟩ := hrunning hphase
    rw [stepWith_of_running P hphase, stepWith_of_running Q hphase, ← State.fetchWith_congr hinit hwrap,
      execWith_congr hinit henc hvalid]
  | halted => rw [stepWith_of_halted P hphase, stepWith_of_halted Q hphase]
  | faulted => rw [stepWith_of_faulted P hphase, stepWith_of_faulted Q hphase]

end Sys2Proof.Machine
end

section
/-!
SUPPORT. The control instructions (44_control): what the common tail of a cycle leaves after any dispatch, the cycles of
Jmp, Nop and the unassigned residues, and that only End halts.
-/

namespace Sys2Proof.Machine

open Sys2Proof.Frame

/-! ### A completed cycle -/

theorem exec_of_dispatched {i : Instr} {s u : State} (hd : Dispatched i s u) : exec i s = .next u.completeCycle :=
  (exec_eq_execWith i s).trans (execWith_of_dispatched hd)

/-- Dispatch does not count, so the common tail counts once and advances from where dispatch left C and D
(43_execution_cycle R127, R129). -/
theorem advanced_of_dispatched {i : Instr} {s u : State} (hd : Dispatched i s u) :
    Advanced s u.completeCycle u.c u.d := by
  obtain ⟨-, -, -, hcycles, -⟩ := dispatched_frame hd
  exact ⟨Alu.inc_val u.c, Alu.inc_val u.d, congrArg (· + 1) hcycles⟩

/-- A completed cycle keeps what dispatch keeps of the phase, the loader, the records and the environment's streams. -/
theorem sameStatus_of_dispatched {i : Instr} {s u : State} (hd : Dispatched i s u) : SameStatus s u.completeCycle := by
  obtain ⟨hphase, hlpos, hloaded, -, hfault, hrefused, hload, hstream, hended⟩ := dispatched_frame hd
  exact ⟨hphase, hlpos, hloaded, hfault, hrefused, hload, hstream, hended⟩

/-- After a dispatch that stores nothing, the write-back makes the cycle's only change to memory. -/
theorem onlyRewrites_of_mem_eq {s u : State} (hmem : u.mem = s.mem) : OnlyRewrites s u.completeCycle u.c := by
  have hread : ∀ x, u.read x = s.read x := fun x => by rw [State.read_eq, State.read_eq, hmem]
  obtain ⟨hcell, hothers⟩ := u.completeCycle_onlyRewrites
  exact ⟨hread u.c ▸ hcell, fun y hy => (hothers y hy).trans (hread y)⟩

/-! ### Jmp, Nop and NOPX -/

/-- Settles O16: dispatch leaves the operand in C, so the write-back and the advance work from the target. -/
theorem jmpRewritesItsTargetAndStepsPastIt : Obligations.JmpRewritesItsTargetAndStepsPastIt := by
  intro s
  have hd : Dispatched .jmp s (s.setC s.operand) := rfl
  have hexec := exec_of_dispatched hd
  exact ⟨_, hexec, advanced_of_dispatched hd, rfl, onlyRewrites_of_mem_eq (State.setC_mem s s.operand), ⟨rfl, rfl⟩,
    sameStatus_of_dispatched hd, reachedAt_of_exec rfl hexec⟩

/-- Settles O17: dispatch does nothing, and the common tail works from C and D as they stand. -/
theorem nopRewritesItsCellAndAdvances : Obligations.NopRewritesItsCellAndAdvances := by
  intro s
  have hd : Dispatched .nop s s := rfl
  have hexec := exec_of_dispatched hd
  exact ⟨_, hexec, advanced_of_dispatched hd, rfl, s.completeCycle_onlyRewrites, ⟨rfl, rfl⟩,
    sameStatus_of_dispatched hd, reachedAt_of_exec rfl hexec⟩

/-- Settles O18: NOPX has the meaning of Nop, and an unassigned residue is that of a well-formed NOPX. -/
theorem nopxRewritesItsCellAndAdvances : Obligations.NopxRewritesItsCellAndAdvances := by
  intro r s
  obtain ⟨t, hnop, hadvanced, ha, hmem, hio, hstatus, -⟩ := nopRewritesItsCellAndAdvances s
  have hexec : exec (.nopx r) s = .next t := (exec_nopx_eq_exec_nop r s).trans hnop
  exact ⟨t, hexec, hadvanced, ha, hmem, hio, hstatus,
    fun hunassigned => reachedAt_of_exec ((nopx_wellFormed_iff r).mpr hunassigned) hexec⟩

/-! ### Who halts -/

/-- The only meaning that ends in HALTED is End's: a completed cycle and a hold keep the phase, a fault sets another. -/
theorem eq_halt_of_exec_halted {i : Instr} {s t : State} (h : exec i s = .next t) (hs : s.phase ≠ .halted)
    (ht : t.phase = .halted) : i = .halt ∧ t = s.enterHalted := by
  rcases exec_cases h with ⟨u, hd, rfl⟩ | hend | ⟨-, -, -, rfl⟩ | ⟨-, -, -, rfl⟩
  · obtain ⟨hphase, -⟩ := dispatched_frame hd
    exact absurd (hphase.symm.trans ht) hs
  · exact hend
  · cases ht
  · exact absurd ht hs

/-- Settles O31: by the phase the step starts in; a loading step enters no HALTED, a stopped one does not move. -/
theorem onlyEndHalts : Obligations.OnlyEndHalts := by
  intro s t h hs ht
  rcases step_cases h with ⟨hload, h⟩ | ⟨hrun, h⟩ | ⟨hhalted, -⟩ | ⟨-, -, rfl⟩
  · exact absurd (loadStepWith_phase hload h) (by simp [ht])
  · obtain ⟨hfetch, rfl⟩ := eq_halt_of_exec_halted h hs ht
    exact ⟨hrun, hfetch, rfl⟩
  · exact absurd hhalted hs
  · exact absurd ht hs

end Sys2Proof.Machine
end

section
/-!
SUPPORT. The data instructions (45_data): the store to the memory operand seen through a read, what a cycle that stores
leaves in memory when D and C are the same cell and when they are not, and the cycles of Rot, SetD and Crz.
-/

namespace Sys2Proof.Machine

open Sys2Proof.Frame

/-! ### The store of Rot and Crz -/

theorem State.read_storeBoth_same (s : State) (v : Word) : (s.storeBoth v).read s.d = v :=
  Memory.read_write_same s.mem s.d v

theorem State.read_storeBoth_other (s : State) (v : Word) {x : Word} (hx : x ≠ s.d) :
    (s.storeBoth v).read x = s.read x :=
  Memory.read_write_other s.mem s.d v x hx

/-- The write-back reads the cell at C afresh, so it sees the stored Word exactly when D is C (20_memory R38). -/
theorem State.storeBoth_storesAndRewrites (s : State) (v : Word) :
    StoresAndRewrites s (s.storeBoth v).completeCycle s.d s.c v := by
  obtain ⟨hcell, hothers⟩ := (s.storeBoth v).completeCycle_onlyRewrites
  rw [State.storeBoth_c] at hcell hothers
  refine ⟨fun heq => ?_, fun hne => ⟨?_, ?_⟩, fun y hd hc => ?_⟩
  · rw [hcell, ← heq, State.read_storeBoth_same]
  · rw [hothers s.d hne, State.read_storeBoth_same]
  · rw [hcell, State.read_storeBoth_other s v hne.symm]
  · rw [hothers y hc, State.read_storeBoth_other s v hd]

/-- The cycle of an instruction whose dispatch stores `v` to mem[D] and A and does nothing else. -/
theorem exec_of_dispatched_storeBoth {i : Instr} {s : State} {v : Word} (hd : Dispatched i s (s.storeBoth v)) :
    ∃ t, exec i s = .next t ∧ Advanced s t s.c s.d ∧ t.a = v ∧ StoresAndRewrites s t s.d s.c v ∧ SameIo s t ∧
      SameStatus s t :=
  ⟨_, exec_of_dispatched hd, advanced_of_dispatched hd, rfl, s.storeBoth_storesAndRewrites v, ⟨rfl, rfl⟩,
    sameStatus_of_dispatched hd⟩

/-! ### Rot, SetD and Crz -/

/-- Settles O20: Rot stores the rotated operand. -/
theorem rotRotatesTheCellAtD : Obligations.RotRotatesTheCellAtD := by
  intro s
  have hd : Dispatched .rot s (s.storeBoth (Alu.rotate s.operand)) := rfl
  obtain ⟨t, hexec, hadvanced, ha, hmem, hio, hstatus⟩ := exec_of_dispatched_storeBoth hd
  rw [← ha] at hmem
  have hrotated : t.a.val = (s.read s.d).val / 3 + (s.read s.d).val % 3 * 19683 := by
    rw [ha]
    exact Alu.rotate_val s.operand
  exact ⟨t, hexec, hadvanced, hrotated, hmem, hio, hstatus, reachedAt_of_exec rfl hexec⟩

/-- Settles O22: Crz stores the combine of the operand and A, whose digits are the grid's entries by O1. -/
theorem crzCombinesTheCellAtDWithA : Obligations.CrzCombinesTheCellAtDWithA := by
  intro s
  have hd : Dispatched .crz s (s.storeBoth (Alu.combine s.operand s.a)) := rfl
  obtain ⟨t, hexec, hadvanced, ha, hmem, hio, hstatus⟩ := exec_of_dispatched_storeBoth hd
  rw [← ha] at hmem
  have hdigits : ∀ k, k < 10 → trit t.a k = grid (trit (s.read s.d) k) (trit s.a k) := by
    rw [ha]
    exact Alu.combineAppliesTheGridToEachDigitPair.2 s.operand s.a
  exact ⟨t, hexec, hadvanced, hdigits, hmem, hio, hstatus, reachedAt_of_exec rfl hexec⟩

/-- Settles O21: dispatch leaves the operand in D and stores nothing, so the advance works from the operand. -/
theorem setDLoadsD : Obligations.SetDLoadsD := by
  intro s
  have hd : Dispatched .setD s (s.setD s.operand) := rfl
  have hexec := exec_of_dispatched hd
  exact ⟨_, hexec, advanced_of_dispatched hd, rfl, onlyRewrites_of_mem_eq (State.setD_mem s s.operand), ⟨rfl, rfl⟩,
    sameStatus_of_dispatched hd, reachedAt_of_exec rfl hexec⟩

end Sys2Proof.Machine
end

section
/-!
SUPPORT. Input and output (46_io): the symbol of Out, the cycles of Out and of an In that takes a byte, the fault entry
and the hold of In, and that the environment's moves keep the invariant.
-/

namespace Sys2Proof.Machine

open Sys2Proof.Frame

/-! ### The environment -/

/-- Settles O44: the machine's invariant is that of its instance. -/
theorem everyEnvironmentMoveKeepsTheInvariant : Obligations.EveryEnvironmentMoveKeepsTheInvariant :=
  fun m _ hs => hs.applyMove m

/-! ### Out -/

/-- The free part of VALID7 is not asked about the codes 32 to 126 (46_io R162, log entry 6). -/
theorem valid7_of_mem_32_126 {c : Code7} (hc : 32 ≤ c.val ∧ c.val ≤ 126) : Config.valid7 c = true :=
  if_pos hc

theorem outsym_of_valid7 {c : Code7} (hc : Config.valid7 c = true) : outsym c = .char7 c := if_pos hc

/-- Settles O23: dispatch appends the symbol of A's code and stores nothing. -/
theorem outAppendsOneSymbol : Obligations.OutAppendsOneSymbol := by
  intro s
  have hd : Dispatched .out s (s.emit (outsym (code7 s.a))) := rfl
  have hexec := exec_of_dispatched hd
  have hsymbol : outsym (code7 s.a) =
      if Config.valid7 (Fin.ofNat 128 s.a.val) = true then .char7 (Fin.ofNat 128 s.a.val) else .repl := rfl
  have hprintable : 32 ≤ s.a.val % 128 ∧ s.a.val % 128 ≤ 126 → outsym (code7 s.a) = .char7 (code7 s.a) :=
    fun h => outsym_of_valid7 (valid7_of_mem_32_126 h)
  exact ⟨_, outsym (code7 s.a), hexec, rfl, hsymbol, hprintable, advanced_of_dispatched hd, rfl,
    onlyRewrites_of_mem_eq (State.emit_mem s _), rfl, sameStatus_of_dispatched hd, reachedAt_of_exec rfl hexec⟩

/-! ### In -/

/-- Settles O24: dispatch moves the byte from IN to A and stores nothing. -/
theorem inTakesTheNextByte : Obligations.InTakesTheNextByte := by
  intro s b hbyte
  have hd : Dispatched .inp s (s.dropByte.setA (Word.ofByte b)) := ⟨b, hbyte, rfl⟩
  have hexec := exec_of_dispatched hd
  have hmem : (s.dropByte.setA (Word.ofByte b)).mem = s.mem := rfl
  exact ⟨_, hexec, rfl, rfl, advanced_of_dispatched hd, onlyRewrites_of_mem_eq hmem, rfl,
    sameStatus_of_dispatched hd, reachedAt_of_exec rfl hexec⟩

/-- Settles O25: the meaning is `raiseFault`, which writes the record and the phase only. -/
theorem inAtEndOfInputTakesItsFault : Obligations.InAtEndOfInputTakesItsFault := by
  intro s hbyte hended
  have hexec : exec .inp s = .next (s.raiseFault .inputExhausted) :=
    (exec_eq_execWith .inp s).trans (execWith_inp_of_exhausted _ hbyte hended)
  have hsame : SameMachine s (s.raiseFault .inputExhausted) := ⟨rfl, rfl, rfl, rfl, rfl, rfl, rfl, rfl⟩
  exact ⟨_, .inputExhausted, hexec, rfl, rfl, rfl, rfl, hsame, rfl, rfl, rfl, rfl, rfl, reachedAt_of_exec rfl hexec⟩

/-- Settles O26: the meaning of a waiting In is the state itself. -/
theorem inWithNoByteHolds : Obligations.InWithNoByteHolds := by
  intro s hbyte hended
  have hexec : exec .inp s = .next s :=
    (exec_eq_execWith .inp s).trans (execWith_inp_of_waiting _ hbyte hended)
  exact ⟨hexec, reachedAt_of_exec rfl hexec⟩

end Sys2Proof.Machine
end

section
/-!
SUPPORT. Faults, reset and hazards (60_exceptions, 70_reset_and_hazards): which steps take a fault and what a step
answers, what a reset leaves, that equal pointers stay equal, and the one step that reads what memory held before a load.
-/

namespace Sys2Proof

/-- The instance `P` with another `MEM_INIT` (10_state R15, D5). -/
abbrev Params.withMemInit (P : Params) (init : Word → Word) : Params := { P with memInit := init }

namespace Machine

open Sys2Proof.Frame

/-! ### The steps that take a fault -/

/-- The only meaning that ends in FAULTED is In's at end of input (46_io R161). -/
theorem eq_raiseFault_of_exec_faulted {i : Instr} {s t : State} (h : exec i s = .next t) (hs : s.phase ≠ .faulted)
    (ht : t.phase = .faulted) :
    i = .inp ∧ s.nextByte = none ∧ s.inEnded = true ∧ t = s.raiseFault .inputExhausted := by
  rcases exec_cases h with ⟨u, hd, rfl⟩ | ⟨-, rfl⟩ | hexhausted | ⟨-, -, -, rfl⟩
  · obtain ⟨hphase, -⟩ := dispatched_frame hd
    exact absurd (hphase.symm.trans ht) hs
  · cases ht
  · exact hexhausted
  · exact absurd ht hs

/-- The only item on which the loader enters FAULTED is a character that fails the legality check (41_loader R95). -/
theorem eq_raiseFault_of_loadStep_faulted {s t : State} (h : loadStep s = .next t) (hs : s.phase ≠ .faulted)
    (ht : t.phase = .faulted) :
    ∃ ch rest, s.load = .char ch :: rest ∧
      legal (residue (Word.ofNat ch.toNat) (Word.ofNat s.lpos)) = false ∧
      t = s.raiseFault (.loadInvalidOpcode (residue (Word.ofNat ch.toNat) (Word.ofNat s.lpos))) := by
  obtain ⟨-, ⟨-, rfl⟩ | ⟨ch, rest, hitems, rfl⟩ | ⟨rest, -, -, rfl⟩ | ⟨rest, -, -, rfl⟩⟩ := loadStep_cases h
  · exact absurd ht hs
  · rcases loadChar_cases ch rest s with
      ⟨-, e⟩ | ⟨-, -, e⟩ | ⟨-, -, -, e⟩ | ⟨-, -, -, -, -, e⟩ | ⟨-, -, -, -, hillegal, e⟩
    case inr.inr.inr.inr => exact ⟨ch, rest, hitems, hillegal, e⟩
    all_goals
      rw [e] at ht
      exact absurd ht hs
  · exact absurd ht hs
  · cases ht

/-- Settles O32: by the phase the step starts in; a stopped one does not move. -/
theorem onlyTheTwoFaultsAreTaken : Obligations.OnlyTheTwoFaultsAreTaken := by
  intro s t h hs ht
  rcases step_cases h with ⟨hload, h⟩ | ⟨hrun, h⟩ | ⟨-, rfl⟩ | ⟨hfaulted, -, -⟩
  · obtain ⟨ch, rest, hitems, hillegal, ht⟩ := eq_raiseFault_of_loadStep_faulted h hs ht
    exact ⟨_, ht, .inr ⟨hload, ch, rest, hitems, rfl, hillegal⟩⟩
  · obtain ⟨hfetch, hbyte, hended, ht⟩ := eq_raiseFault_of_exec_faulted h hs ht
    exact ⟨_, ht, .inl ⟨hrun, hfetch, hbyte, hended, rfl⟩⟩
  · exact absurd ht hs
  · exact absurd hfaulted hs

/-! ### What a step answers -/

theorem loadStepWith_answers (P : Params) (s : State) :
    (∃ t, loadStepWith P s = .next t) ∨
    (∃ reason, s.refused = some reason ∧ loadStepWith P s = .refused (.refusedInput reason)) := by
  unfold loadStepWith
  split
  · exact .inr ⟨_, ‹_›, rfl⟩
  · split <;> exact .inl ⟨_, rfl⟩

theorem faultedStep_answers (s : State) :
    faultedStep s = .next s ∨ ∃ f, s.fault = some f ∧ faultedStep s = .fault f := by
  unfold faultedStep
  split
  · exact .inr ⟨_, ‹_›, rfl⟩
  · exact .inl rfl

/-- A step answers a next state, or what stands recorded in the phase that stops on it (60_exceptions R175, R178). -/
theorem stepWith_answers (P : Params) (s : State) :
    (∃ t, stepWith P s = .next t) ∨
    (s.phase = .loading ∧ ∃ reason, s.refused = some reason ∧ stepWith P s = .refused (.refusedInput reason)) ∨
    (s.phase = .faulted ∧ ∃ f, s.fault = some f ∧ stepWith P s = .fault f) := by
  cases hphase : s.phase with
  | loading =>
    rw [stepWith_of_loading P hphase]
    exact (loadStepWith_answers P s).imp_right fun hrefused => .inl ⟨rfl, hrefused⟩
  | running =>
    rw [stepWith_of_running P hphase]
    exact .inl (execWith_answers_next P _ s)
  | halted => exact .inl ⟨s, stepWith_of_halted P hphase⟩
  | faulted =>
    rw [stepWith_of_faulted P hphase]
    exact (faultedStep_answers s).imp (fun h => ⟨s, h⟩) fun hfault => .inr ⟨rfl, hfault⟩

theorem step_answers (s : State) :
    (∃ t, step s = .next t) ∨
    (s.phase = .loading ∧ ∃ reason, s.refused = some reason ∧ step s = .refused (.refusedInput reason)) ∨
    (s.phase = .faulted ∧ ∃ f, s.fault = some f ∧ step s = .fault f) :=
  step_eq_stepWith s ▸ stepWith_answers Config.machine s

/-- Settles O35: each answer is one case of `step_answers`; a running step is a meaning, which answers a next state. -/
theorem aStepStopsOnlyAsRecorded : Obligations.AStepStopsOnlyAsRecorded := by
  refine ⟨fun s f h => ?_, fun s r h => ?_, fun s hrun => step_of_running hrun ▸ exec_answers_next s.fetch s⟩
  · rcases step_answers s with ⟨t, e⟩ | ⟨-, reason, -, e⟩ | ⟨hfaulted, g, hfault, e⟩ <;> cases e.symm.trans h
    exact ⟨hfaulted, hfault⟩
  · rcases step_answers s with ⟨t, e⟩ | ⟨hload, reason, hrefused, e⟩ | ⟨-, g, -, e⟩ <;> cases e.symm.trans h
    exact ⟨hload, reason, hrefused, rfl⟩

/-! ### Reset -/

theorem State.read_of_mem_eq_nil {s : State} (hmem : s.mem = []) (x : Word) : s.read x = Config.memInit x := by
  rw [State.read_eq, hmem]
  rfl

/-- Settles O41: the move is `resetEvent`, whose memory lists no cell. -/
theorem resetRestoresTheEngineAndKeepsTheStreams : Obligations.ResetRestoresTheEngineAndKeepsTheStreams := by
  rintro s t rfl
  exact ⟨rfl, rfl, rfl, rfl, rfl, rfl, rfl, rfl, State.read_of_mem_eq_nil s.resetEvent_mem, rfl, rfl, rfl, rfl⟩

/-! ### Equal pointers -/

/-- Settles O38: dispatch leaves both pointers, the advance moves both alike, and a cycle that does not complete moves
neither. -/
theorem equalPointersStayEqual : Obligations.EqualPointersStayEqual := by
  intro i s t heq hjmp hsetD h
  rcases exec_completes_or_keeps h with ⟨u, hd, rfl⟩ | ⟨-, ⟨-, hc, hd, -⟩, -⟩
  · have hc : u.c = s.c := (dispatched_c hd).trans (if_neg hjmp)
    have hd : u.d = s.d := (dispatched_d hd).trans (if_neg hsetD)
    rw [State.completeCycle_d, State.completeCycle_c, hc, hd, heq]
  · rw [hc, hd, heq]

/-! ### Reads of MEM_INIT -/

section
variable {s : State} (P : Params) (init : Word → Word)

theorem State.FullyWritten.readWith_withMemInit (hs : s.FullyWritten) (x : Word) :
    s.readWith (P.withMemInit init) x = s.readWith P x :=
  Memory.readWith_of_written init P.memInit (hs x)

theorem State.FullyWritten.fetchWith_withMemInit (hs : s.FullyWritten) :
    s.fetchWith (P.withMemInit init) = s.fetchWith P := by
  rw [State.fetchWith, State.fetchWith, hs.readWith_withMemInit P init]

theorem State.FullyWritten.completeCycleWith_withMemInit (hs : s.FullyWritten) :
    s.completeCycleWith (P.withMemInit init) = s.completeCycleWith P := by
  rw [State.completeCycleWith, State.completeCycleWith, State.writeBackWith, State.writeBackWith,
    hs.readWith_withMemInit P init]

variable {P}

theorem State.FullyWritten.dispatchedWith_withMemInit (hs : s.FullyWritten) {i : Instr} {u : State}
    (hd : DispatchedWith P i s u) : DispatchedWith (P.withMemInit init) i s u := by
  have hop : s.operandWith (P.withMemInit init) = s.operandWith P :=
    hs.readWith_withMemInit P init s.operandAddr
  cases i with
  | jmp | rot | setD | crz => rw [DispatchedWith, hop]; exact hd
  | _ => exact hd

/-- With every cell written, before dispatch and after it, a meaning reads no `MEM_INIT`. -/
theorem execWith_withMemInit (hs : s.InvWith P) (hrun : s.phase = .running) (i : Instr) :
    execWith P i s = execWith (P.withMemInit init) i s := by
  obtain ⟨t, ht⟩ := execWith_answers_next P i s
  rw [ht]
  rcases execWith_cases ht with ⟨u, hd, rfl⟩ | ⟨rfl, rfl⟩ | ⟨rfl, hbyte, hended, rfl⟩ | ⟨rfl, hbyte, hended, rfl⟩
  · have hfull : s.FullyWritten := hs.loadedMem (.inl hrun)
    obtain ⟨hphase, -⟩ := dispatched_frame hd
    have hfull' : u.FullyWritten := (hs.dispatched hrun hd).loadedMem (.inl (hphase.trans hrun))
    rw [execWith_of_dispatched (hfull.dispatchedWith_withMemInit init hd), hfull'.completeCycleWith_withMemInit P init]
  · rfl
  · exact (execWith_inp_of_exhausted _ hbyte hended).symm
  · exact (execWith_inp_of_waiting _ hbyte hended).symm

/-- The cells of the image loaded so far are written. -/
theorem State.ImageLegalWith.readWith_ofNat (himage : s.ImageLegalWith P) (hlpos : s.lpos ≤ 59049) {k : Nat}
    (hk : k < s.lpos) : Memory.readWith P.memInit s.mem (Word.ofNat k) = Memory.readWith init s.mem (Word.ofNat k) := by
  obtain ⟨v, hv, -⟩ := (himage (Word.ofNat k)).1 (by rwa [Word.val_ofNat_of_lt (hk.trans_le hlpos)])
  rw [Memory.readWith_of_lookup hv, Memory.readWith_of_lookup hv]

/-- With two characters loaded, both predecessors of the first tail cell are written (41_loader R97). -/
theorem State.InvWith.finishLoadWith_withMemInit (hs : s.InvWith P) (hload : s.phase = .loading) (h2 : 2 ≤ s.lpos)
    (rest : List LoadItem) : s.finishLoadWith P rest = s.finishLoadWith (P.withMemInit init) rest := by
  obtain ⟨n, hn⟩ := Nat.exists_eq_add_of_le' h2
  have hread {k : Nat} (hk : k < s.lpos) := (hs.loadingImage hload).readWith_ofNat init hs.lposLe hk
  rw [State.finishLoadWith, State.finishLoadWith, Memory.fillTailWith, Memory.fillTailWith, hn, Alu.pred_ofNat_succ,
    Alu.pred_ofNat_succ, hread (by omega : n < s.lpos), hread (by omega : n + 1 < s.lpos)]

theorem loadStepWith_withMemInit (hs : s.InvWith P) (hload : s.phase = .loading)
    (hone : s.lpos = 1 → ∀ rest, s.load ≠ .endOfText :: rest) :
    loadStepWith P s = loadStepWith (P.withMemInit init) s := by
  rw [loadStepWith, loadStepWith]
  cases s.refused with
  | some r => rfl
  | none =>
    match hitems : s.load with
    | [] => rfl
    | .char ch :: rest => rfl
    | .endOfText :: rest =>
      refine congrArg Host.Outcome.next ?_
      rw [endTextWith, endTextWith]
      by_cases h0 : s.lpos = 0
      · rw [if_pos h0, if_pos h0]
      · have h1 : s.lpos ≠ 1 := fun h => hone h rest hitems
        rw [if_neg h0, if_neg h0, hs.finishLoadWith_withMemInit init hload (by omega)]

end

/-- Settles O59: by phase. A running step reads written cells only; the loader reads memory at the end of a text only,
and two characters make the cells it reads there written. -/
theorem onlyAOneCharacterTextReadsMemInit : Obligations.OnlyAOneCharacterTextReadsMemInit := by
  intro P init s hs hone
  change stepWith P s = stepWith (P.withMemInit init) s
  cases hphase : s.phase with
  | loading =>
    rw [stepWith_of_loading _ hphase, stepWith_of_loading _ hphase]
    exact loadStepWith_withMemInit init hs hphase fun h rest hitems => hone ⟨hphase, h, rest, hitems⟩
  | running =>
    have hfull : s.FullyWritten := hs.loadedMem (.inl hphase)
    rw [stepWith_of_running _ hphase, stepWith_of_running _ hphase, hfull.fetchWith_withMemInit P init,
      execWith_withMemInit init hs hphase]
  | halted => rw [stepWith_of_halted _ hphase, stepWith_of_halted _ hphase]
  | faulted => rw [stepWith_of_faulted _ hphase, stepWith_of_faulted _ hphase]

end Machine

end Sys2Proof
end
